-- ==== Sys2Proof/Word.lean ====
section
/-! DEFINITION. The word types of the address translation process and its plainest bit-field arithmetic
(spec/00_scope.md R11, R12). -/

namespace Sys2Proof

/-- One byte of physical memory: "Byte size is 8 bits" (R22). -/
abbrev Byte := BitVec 8

/-- A 64-bit value: a general register Xt or a VA (R9, R60). -/
abbrev Word := BitVec 64

/-- An IPA or PA as a register or descriptor holds it: "naturals below 2^56" (R20). -/
abbrev PAddr := BitVec 56

/-- The raw value of a descriptor, 64 or 128 bits, zero-extended to 128 (R82, R141). -/
abbrev Raw := BitVec 128

/-- `v[lo+width-1 : lo]` as an unsigned integer (R11). -/
def field (v lo width : Nat) : Nat := v / 2 ^ lo % 2 ^ width

/-- `v` with its bits below `x` cleared: the table base aligned to the table size (R27, R88). -/
def alignDown (v x : Nat) : Nat := v / 2 ^ x * 2 ^ x

end Sys2Proof
end

