-- ==== Sys2Proof/Syntax.lean ====
section
/-! DEFINITION. The assembler syntax of the seventeen address translation instructions
(spec/30_encoding.md R130 to R133): the operand, the instructions, and the grammar of `<operation>`. -/

namespace Sys2Proof

/-- The operand `<Xt>`: register X0 to X30, or the zero register that register number 31 names in
this encoding (R60, R134; G3). -/
inductive XReg where
  | x (n : Nat)
  | zr
  deriving DecidableEq, Repr, Inhabited

/-- The instructions `AT <operation>, <Xt>`, one constructor for each operation of R132 and each row of
spec/opcode_table.json, in the order of R136. -/
inductive Instr where
  | atS1E1R (xt : XReg)
  | atS1E1W (xt : XReg)
  | atS1E0R (xt : XReg)
  | atS1E0W (xt : XReg)
  | atS1E1RP (xt : XReg)
  | atS1E1WP (xt : XReg)
  | atS1E1A (xt : XReg)
  | atS1E2R (xt : XReg)
  | atS1E2W (xt : XReg)
  | atS12E1R (xt : XReg)
  | atS12E1W (xt : XReg)
  | atS12E0R (xt : XReg)
  | atS12E0W (xt : XReg)
  | atS1E2A (xt : XReg)
  | atS1E3R (xt : XReg)
  | atS1E3W (xt : XReg)
  | atS1E3A (xt : XReg)
  deriving DecidableEq, Repr, Inhabited

/-- The operand of an instruction: there is one operand form (R130). -/
def Instr.xt : Instr → XReg
  | .atS1E1R t | .atS1E1W t | .atS1E0R t | .atS1E0W t | .atS1E1RP t | .atS1E1WP t | .atS1E1A t
  | .atS1E2R t | .atS1E2W t | .atS12E1R t | .atS12E1W t | .atS12E0R t | .atS12E0W t | .atS1E2A t
  | .atS1E3R t | .atS1E3W t | .atS1E3A t => t

/-- The component `<stages>` of an operation (R131). -/
inductive AtStages where
  | s1
  | s12
  deriving DecidableEq, Repr, Inhabited

/-- The component `<el>` of an operation (R131). -/
inductive AtEl where
  | e0
  | e1
  | e2
  | e3
  deriving DecidableEq, Repr, Inhabited

/-- The last component of an operation: `(<read|write>{<pan>})` or `<ignore>` (R131). By construction
`<ignore>` stands with neither `<read|write>` nor `<pan>`. -/
inductive AtAccess where
  | read (pan : Bool)
  | write (pan : Bool)
  | ignore
  deriving DecidableEq, Repr, Inhabited

/-- The optional feature an operation needs (R132, R136). -/
inductive AtFeature where
  | always
  | pan2
  | ats1a
  deriving DecidableEq, Repr, Inhabited

/-- An operation name split into its components: the row of the table of R450. -/
structure AtForm where
  stages : AtStages
  el : AtEl
  access : AtAccess
  deriving DecidableEq, Repr, Inhabited

/-- Whether `<pan>` is written. -/
def AtForm.pan (f : AtForm) : Bool :=
  match f.access with
  | .read p => p
  | .write p => p
  | .ignore => false

/-- The feature an operation with these components needs: FEAT_PAN2 for `<pan>`, FEAT_ATS1A for
`<ignore>` (R131). -/
def AtForm.feature (f : AtForm) : AtFeature :=
  match f.access with
  | .ignore => .ats1a
  | .read p => if p then .pan2 else .always
  | .write p => if p then .pan2 else .always

/-- The components of each operation (R131, and the table of R450). -/
def Instr.form : Instr → AtForm
  | .atS1E1R _ => ⟨.s1, .e1, .read false⟩
  | .atS1E1W _ => ⟨.s1, .e1, .write false⟩
  | .atS1E0R _ => ⟨.s1, .e0, .read false⟩
  | .atS1E0W _ => ⟨.s1, .e0, .write false⟩
  | .atS1E1RP _ => ⟨.s1, .e1, .read true⟩
  | .atS1E1WP _ => ⟨.s1, .e1, .write true⟩
  | .atS1E1A _ => ⟨.s1, .e1, .ignore⟩
  | .atS1E2R _ => ⟨.s1, .e2, .read false⟩
  | .atS1E2W _ => ⟨.s1, .e2, .write false⟩
  | .atS12E1R _ => ⟨.s12, .e1, .read false⟩
  | .atS12E1W _ => ⟨.s12, .e1, .write false⟩
  | .atS12E0R _ => ⟨.s12, .e0, .read false⟩
  | .atS12E0W _ => ⟨.s12, .e0, .write false⟩
  | .atS1E2A _ => ⟨.s1, .e2, .ignore⟩
  | .atS1E3R _ => ⟨.s1, .e3, .read false⟩
  | .atS1E3W _ => ⟨.s1, .e3, .write false⟩
  | .atS1E3A _ => ⟨.s1, .e3, .ignore⟩

/-- The twelve operations that exist always, as R132 lists them. -/
def operationsAlways : List AtForm :=
  [⟨.s1, .e1, .read false⟩, ⟨.s1, .e1, .write false⟩, ⟨.s1, .e0, .read false⟩, ⟨.s1, .e0, .write false⟩,
   ⟨.s12, .e1, .read false⟩, ⟨.s12, .e1, .write false⟩, ⟨.s12, .e0, .read false⟩, ⟨.s12, .e0, .write false⟩,
   ⟨.s1, .e2, .read false⟩, ⟨.s1, .e2, .write false⟩, ⟨.s1, .e3, .read false⟩, ⟨.s1, .e3, .write false⟩]

/-- The two operations "If FEAT_PAN2 is implemented" (R132). -/
def operationsPan2 : List AtForm :=
  [⟨.s1, .e1, .write true⟩, ⟨.s1, .e1, .read true⟩]

/-- The three operations "If FEAT_ATS1A is implemented" (R132). -/
def operationsAts1a : List AtForm :=
  [⟨.s1, .e1, .ignore⟩, ⟨.s1, .e2, .ignore⟩, ⟨.s1, .e3, .ignore⟩]

/-- "The complete list of operations" (R132): the list, not the grammar, is the definition. -/
def operations : List AtForm := operationsAlways ++ operationsPan2 ++ operationsAts1a

/-- The name of `<stages>` as written. -/
def AtStages.name : AtStages → String
  | .s1 => "S1"
  | .s12 => "S12"

/-- The name of `<el>` as written. -/
def AtEl.name : AtEl → String
  | .e0 => "E0"
  | .e1 => "E1"
  | .e2 => "E2"
  | .e3 => "E3"

/-- The name of the last component as written. -/
def AtAccess.name : AtAccess → String
  | .read p => if p then "RP" else "R"
  | .write p => if p then "WP" else "W"
  | .ignore => "A"

/-- `<operation>` as written (R131). -/
def AtForm.name (f : AtForm) : String := f.stages.name ++ f.el.name ++ f.access.name

/-- `<Xt>` as written. -/
def XReg.name : XReg → String
  | .x n => "X" ++ toString n
  | .zr => "XZR"

/-- "The A64 assembly language syntax of an address translation instruction is `AT <operation>, <Xt>`"
(R130). -/
def Instr.assembly (i : Instr) : String := "AT " ++ i.form.name ++ ", " ++ i.xt.name

end Sys2Proof
end

