-- ==== Sys2Proof/Machine/Vocabulary.lean ====
section
/-! DEFINITION. The vocabulary of the translation process: Exception levels, Security states, address spaces,
regimes, stages, granules, fault records, attributes, decoded descriptors, accesses, the resolved controls of one
walk, and TLB entries (spec/00_scope.md R14, R16; 10_state.md R20 to R24, R70, R73; 60_exceptions.md R500, R530
to R532). -/

namespace Sys2Proof.Machine

/-- Exception levels; "higher" is the larger number and more privilege (R24, R530). -/
inductive EL where
  | el0
  | el1
  | el2
  | el3
  deriving DecidableEq, Repr, Inhabited

/-- The number of an Exception level. -/
def EL.toNat : EL → Nat
  | .el0 => 0
  | .el1 => 1
  | .el2 => 2
  | .el3 => 3

/-- The four Security states (R24, R531). -/
inductive SecState where
  | secure
  | nonSecure
  | realm
  | root
  deriving DecidableEq, Repr, Inhabited

/-- An address space. All four are PA spaces; the first three are also the IPA spaces (R21). -/
inductive Space where
  | secure
  | nonSecure
  | realm
  | root
  deriving DecidableEq, Repr, Inhabited

/-- The number of a space, used to key memory by the pair (PA space, PA) (R21, R22). -/
def Space.toNat : Space → Nat
  | .secure => 0
  | .nonSecure => 1
  | .realm => 2
  | .root => 3

/-- "Each state's accesses with stage 1 disabled go to its own PA space" (R421, R531). -/
def SecState.space : SecState → Space
  | .secure => .secure
  | .nonSecure => .nonSecure
  | .realm => .realm
  | .root => .root

/-- The two translation stages (R16). -/
inductive Stage where
  | s1
  | s2
  deriving DecidableEq, Repr, Inhabited

/-- The translation regimes (R55, R532). -/
inductive Regime where
  | el10
  | el20
  | el2
  | el3
  deriving DecidableEq, Repr, Inhabited

/-- The two translation systems (R2). -/
inductive System where
  | vmsav8
  | vmsav9
  deriving DecidableEq, Repr, Inhabited

/-- The translation granules (R8). A TG field holds the decoded granule: "the model takes the decoded
granule as the field's value" (R205). -/
inductive Granule where
  | g4K
  | g16K
  | g64K
  deriving DecidableEq, Repr, Inhabited

/-- `GranuleBits`: the number of low IA bits a Page descriptor maps directly to the OA (R8). -/
def Granule.bits : Granule → Nat
  | .g4K => 12
  | .g16K => 14
  | .g64K => 16

/-- The kinds of access (R24). -/
inductive AccessKind where
  | read
  | write
  | fetch
  deriving DecidableEq, Repr, Inhabited

/-- The five kinds of MMU fault (R500). -/
inductive FaultKind where
  | translation
  | addressSize
  | permission
  | accessFlag
  | alignment
  deriving DecidableEq, Repr, Inhabited

/-- The rule that raised a fault: "for proofs only; no source register holds it" (R500). The names
follow the catalogue of R502 to R504. -/
inductive FaultCause where
  /-- T1: an Invalid descriptor (R165). -/
  | invalidDescriptor
  /-- T2: a VA in neither range (R190). -/
  | outOfRange
  /-- T3: EPDn is one and no TLB entry answers (R193). -/
  | epd
  /-- T4: E0PDn prevents EL0 access (R196). -/
  | e0pd
  /-- T5, T6, T7: SL0, SL2 reserved or inconsistent with T0SZ (R283, R323, R363). -/
  | stage2Start
  /-- T8: the VMSAv9-128 start level is greater than 3 (R385). -/
  | startLevel
  /-- T9: the next level table is too large (R400). -/
  | tableSize
  /-- T10: a valid entry of a type its level does not allow (R264 and siblings, D14). -/
  | typeNotAllowed
  /-- A1: bits of the base address above the OA size (R183). -/
  | baseAddress
  /-- A2: bits of the start level address above the OA size (R392). -/
  | startAddress
  /-- A3: bits of the next level address above the OA size (R402). -/
  | nextAddress
  /-- A4: bits of the final address above the OA size (R407). -/
  | finalAddress
  /-- A5: the flat-mapped address exceeds the OA size (R422, D32). -/
  | flatAddress
  /-- P1: the AssuredOnly check (R244). -/
  | assuredOnly
  /-- P2: the Guarded control stack check (R245). -/
  | gcsh
  /-- P3: the TopLevel checks (R248, R249). -/
  | topLevel
  /-- `CheckPerms` (R511). -/
  | checkPerms
  /-- A point the source leaves open, for which the launch parameter names a fault. -/
  | openPoint
  /-- A misaligned access (R421, R512): given by the access, not by its translation. -/
  | alignment
  deriving DecidableEq, Repr, Inhabited

/-- The MMU fault record (R500): kind, lookup level reported (-2 to 3), stage, and the tag. -/
structure MmuFault where
  kind : FaultKind
  level : Int
  stage : Stage
  cause : FaultCause
  deriving DecidableEq, Repr, Inhabited

/-- Cacheability: the three the source names (R424), and the fourth a table lookup of the family may have
(R92; PRESUMED, log 46). -/
inductive Cacheability where
  | nonCacheable
  | writeThroughReadAlloc
  | writeBackReadAlloc
  | writeBackReadWriteAlloc
  deriving DecidableEq, Repr, Inhabited

/-- Shareability: the two the source names (R424), and the third of the family (R92; PRESUMED, log 46). -/
inductive Shareability where
  | nonShareable
  | innerShareable
  | outerShareable
  deriving DecidableEq, Repr, Inhabited

/-- Memory attributes. Those of R424 are the only concrete ones of the source; those of a descriptor are
opaque labels (D15). `xs` is `none` without FEAT_XS, `tagged` is `none` where no Tagged attribute is set. -/
inductive Attrs where
  | label (bits : Raw)
  | deviceNGnRnE (xs : Option Bool)
  | normal (inner outer : Cacheability) (share : Shareability) (tagged : Option Bool) (xs : Option Bool)
  deriving DecidableEq, Repr, Inhabited

/-- The Cacheability and Shareability of table lookups that TCR_ELx and VTCR_EL2 give (R92): decoded, as the
source names no field. -/
structure TableAttrs where
  inner : Cacheability
  outer : Cacheability
  share : Shareability
  deriving DecidableEq, Repr, Inhabited

/-- Access permissions of a descriptor: opaque labels (D15). -/
abbrev Perms := Raw

/-- Hierarchical permissions of a Table descriptor: opaque labels (R14, D15). Their width is not in the source
(R141): 16 bits is the model's choice (DESIGN CHOICE, log 58). -/
abbrev Hier := BitVec 16

/-- The decoded Table descriptor (R14). -/
structure TableDesc where
  next : PAddr
  skl : BitVec 2
  nsTable : Bool
  hier : Hier
  prot : Bool
  deriving DecidableEq, Repr, Inhabited

/-- The decoded Block or Page descriptor (R14). `ns` is the output space the descriptor asks for. -/
structure LeafDesc where
  oab : PAddr
  attrs : Attrs
  perms : Perms
  ns : Space
  prot : Bool
  assuredOnly : Bool
  topLevel0 : Bool
  topLevel1 : Bool
  mro : Bool
  deriving DecidableEq, Repr, Inhabited

/-- What `DecodeDesc` returns: "Invalid, Table, Block or Page and nothing else" (R14). -/
inductive Desc where
  | invalid
  | table (t : TableDesc)
  | block (l : LeafDesc)
  | page (l : LeafDesc)
  deriving DecidableEq, Repr, Inhabited

/-- The context a decode may depend on: the arguments of `DecodeDesc` but the raw value (R14). -/
structure DecodeCtx where
  system : System
  stage : Stage
  granule : Granule
  level : Int
  /-- The 52-bit OA size is in use (R27, R143): `WalkCfg.oa52`. -/
  oa52 : Bool
  ds : Bool
  lpa : Bool
  pnch : Bool
  hpd : Bool
  /-- VTCR_EL2.AssuredOnly, 0 under VMSAv9-128, where it is RES0 (R139, R243). -/
  assuredOnly : Bool
  deriving DecidableEq, Repr, Inhabited

/-- An access whose address is translated (R24, R160, R450). -/
structure Access where
  kind : AccessKind
  privileged : Bool
  /-- A Guarded control stack data access (R24, R245). -/
  gcs : Bool
  /-- PSTATE.PAN is considered when determining permissions (R131, R468). -/
  usePan : Bool
  /-- `CheckPerms` is called: false for an operation with `<ignore>` (R468). -/
  checkPerms : Bool
  deriving DecidableEq, Repr, Inhabited

/-- Who asks for a translation. -/
inductive Purpose where
  | atInstr
  | fetch
  | explicit
  | speculative
  deriving DecidableEq, Repr, Inhabited

/-- One translation request: the context of R24 an access is made in, the VA and the access. -/
structure Request where
  el : EL
  ss : SecState
  regime : Regime
  va : Word
  acc : Access
  /-- Stage 1 alone (R468) or `Translate` whole (R160). -/
  stage1Only : Bool
  purpose : Purpose
  /-- The AT operation that asks, if one does: `ATFaultReport` reads it (R479). -/
  form : Option AtForm
  deriving DecidableEq, Repr, Inhabited

/-- The resolved controls of one walk of one stage: what R162's "per-system details" read. -/
structure WalkCfg where
  stage : Stage
  regime : Regime
  ss : SecState
  /-- The range: true when TTBR1_ELx is selected (R191). -/
  upper : Bool
  /-- The space of the input address of a stage 2 walk; for stage 1 the space of the Security state. -/
  inSpace : Space
  system : System
  granule : Granule
  /-- TnSZ or T0SZ (R9). -/
  sz : Nat
  /-- The Effective value of DS (R261, R301). -/
  ds : Bool
  /-- The 52-bit OA option of the granule (R10). -/
  opt52 : Bool
  ttst : Bool
  lva : Bool
  lpa : Bool
  /-- The stage supports two VA ranges (R186, R192). -/
  twoRanges : Bool
  sl0 : Nat
  sl2 : Bool
  /-- TTBR_ELx.SKL (R384). -/
  skl : Nat
  /-- The base address bits as the base register holds them (R27). -/
  baddr : PAddr
  oaSize : Nat
  paSize : Nat
  /-- The Effective value of the appropriate SCTLR_ELx.EE (R86). -/
  ee : Bool
  /-- The Effective value of TCR_ELx.HPDn (R166). -/
  hpd : Bool
  /-- VTCR_EL2.AssuredOnly as written, for the decode of a stage 2 descriptor (R14, R243). -/
  assuredOnly : Bool
  pnch : Bool
  /-- Protection is enabled for the regime (R221). -/
  protection : Bool
  /-- Descriptor addresses are IPAs and subject to stage 2 (R178). -/
  tableIsIpa : Bool
  /-- The space of the initial lookup (R104 to R112). -/
  lookupSpace : Space
  /-- The output space chosen by SA, NSA for a Secure stage 2 (R109). -/
  s2OutSpace : Space
  /-- The attributes the walker uses for the tables (R92). -/
  walkAttrs : TableAttrs
  /-- The value of PTTWI, which a TLB may cache (R118). -/
  pttwi : Bool
  deriving DecidableEq, Repr, Inhabited

/-- Where a walk stands: the descriptor about to be read, or just read (R73, R162). -/
structure WalkPos where
  level : Int
  /-- The address of the descriptor (`da`). -/
  da : Nat
  /-- The space of the lookup. -/
  space : Space
  /-- The first lookup of the stage. -/
  first : Bool
  /-- Accumulated hierarchical permissions. -/
  hier : Option Hier
  /-- The level has the Assured Translation property (R240). -/
  assured : Bool
  deriving DecidableEq, Repr, Inhabited

/-- A translation table entry cached in the TLB, with the controls and the walk values it was read
under ("the TLB may retain their outcome with the entry", R70, R71, R73). It answers every input
address whose bits from `lowBits` up are `iaHigh`. -/
structure TlbEntry where
  cfg : WalkCfg
  lowBits : Nat
  iaHigh : Nat
  pos : WalkPos
  desc : Desc
  /-- The stage 2 MRO permission of the IPA the descriptor was fetched from (R240). -/
  mro : Bool
  deriving DecidableEq, Repr, Inhabited

/-- The result of one stage (R169). `level` is the level of the final descriptor, 0 for a flat mapping;
`assured` says whether that level has the Assured Translation property. -/
structure StageOk where
  oa : Nat
  space : Space
  attrs : Attrs
  perms : Option Perms
  level : Int
  assured : Bool
  assuredOnly : Bool
  topLevel0 : Bool
  topLevel1 : Bool
  mro : Bool
  deriving DecidableEq, Repr, Inhabited

/-- The result of `Translate` or `Stage1Only` (R160, R169, R468). `isPa` tells a PA from an IPA. -/
structure TransOk where
  oa : Nat
  space : Space
  isPa : Bool
  attrs : Attrs
  s1Perms : Option Perms
  s2Perms : Option Perms
  s1Level : Int
  s2Level : Int
  deriving DecidableEq, Repr, Inhabited

/-- "`Translate` returns either `Ok` or exactly one `Fault`" (R501). -/
inductive TransResult where
  | ok (t : TransOk)
  | fault (f : MmuFault)
  deriving DecidableEq, Repr, Inhabited

end Sys2Proof.Machine
end

