-- ==== Sys2Proof/Machine/Registers.lean ====
section
/-! DEFINITION. The system registers as records of the fields the source names (spec/10_state.md R25 to R40, R55), and
the direct writes to them. -/

namespace Sys2Proof.Machine

/-- A translation table base address register (R26, R28). `baddr` holds the base address bits at the
register's own bit positions (Table D8-10, R27); SKL is used under VMSAv9-128 only; the width of ASID is
not in the source. VTTBR_EL2 and VSTTBR_EL2 use `baddr` and `skl`. -/
structure Ttbr where
  baddr : PAddr
  skl : BitVec 2
  asid : BitVec 16
  deriving DecidableEq, Repr, Inhabited

/-- The fields of TCR_ELx (R29). `a1` belongs to TCR_EL1; a regime with one range uses T0SZ, TG0, HPD0 and
`tableAttrs0`. TnSZ is "6 bits at least": exactly 6 is the model's choice (DESIGN CHOICE, log 58). `tableAttrs0`
and `tableAttrs1` stand for the unnamed Cacheability and Shareability fields of R92, one set for each range as
the family has them (PRESUMED of G5, log 58). -/
structure Tcr where
  t0sz : BitVec 6
  t1sz : BitVec 6
  tg0 : Granule
  tg1 : Granule
  epd0 : Bool
  epd1 : Bool
  e0pd0 : Bool
  e0pd1 : Bool
  hpd0 : Bool
  hpd1 : Bool
  ds : Bool
  a1 : Bool
  tableAttrs0 : TableAttrs
  tableAttrs1 : TableAttrs
  deriving DecidableEq, Repr, Inhabited

/-- The two FEAT_THE control fields of TCR2_ELx, and of TCR_EL3 (R29, R30). -/
structure TheCtl where
  pnch : Bool
  pttwi : Bool
  deriving DecidableEq, Repr, Inhabited

/-- VTCR_EL2 (R32). T0SZ is "6 bits at least": exactly 6 is the model's choice (DESIGN CHOICE, log 58).
`tableAttrs` serves stage 2 of a Secure IPA too, since R92 names no VSTCR_EL2. -/
structure Vtcr where
  t0sz : BitVec 6
  sl0 : BitVec 2
  sl2 : Bool
  tg0 : Granule
  ds : Bool
  nsw : Bool
  nsa : Bool
  tl0 : Bool
  tl1 : Bool
  assuredOnly : Bool
  gcsh : Bool
  tableAttrs : TableAttrs
  deriving DecidableEq, Repr, Inhabited

/-- VSTCR_EL2 (R34). T0SZ has exactly 6 bits, as in VTCR_EL2 (DESIGN CHOICE, log 58). -/
structure Vstcr where
  t0sz : BitVec 6
  sl0 : BitVec 2
  sl2 : Bool
  tg0 : Granule
  sw : Bool
  sa : Bool
  deriving DecidableEq, Repr, Inhabited

/-- SCTLR_ELx (R35). -/
structure Sctlr where
  m : Bool
  ee : Bool
  i : Bool
  deriving DecidableEq, Repr, Inhabited

/-- HCR_EL2 (R36). -/
structure Hcr where
  vm : Bool
  dc : Bool
  dct : Bool
  ptw : Bool
  deriving DecidableEq, Repr, Inhabited

/-- SCR_EL3 (R37). -/
structure Scr where
  nse : Bool
  ns : Bool
  deriving DecidableEq, Repr, Inhabited

/-- One value for each Security state below EL3. -/
structure PerState where
  secure : Bool
  nonSecure : Bool
  realm : Bool
  deriving DecidableEq, Repr, Inhabited

/-- The configuration inputs whose register fields the source does not name (R7): `System(stage)`
(R2), `OAsize(stage)` (D9), `EL2Enabled(ss)` (D18), `EL2Regime(ss)` and who serves EL0 (R532), and
`TopByteIgnore` per regime and range (D6), and whether Stage 2 Overlay permissions are enabled (R242). They are
gathered as one record that software writes. -/
structure UnnamedFields where
  sysEl10 : System
  sysEl20 : System
  sysEl2 : System
  sysEl3 : System
  sysStage2 : System
  oaEl10 : BitVec 6
  oaEl20 : BitVec 6
  oaEl2 : BitVec 6
  oaEl3 : BitVec 6
  oaStage2 : BitVec 6
  /-- "EL2 is enabled" in Secure state. Realm EL2 is always enabled (R111). -/
  el2EnabledSecure : Bool
  el2EnabledNonSecure : Bool
  /-- True: the EL2&0 regime serves EL2. -/
  el2HasEl20 : PerState
  /-- True: the EL2&0 regime serves EL0. -/
  el0InEl20 : PerState
  tbiEl10Lower : Bool
  tbiEl10Upper : Bool
  tbiEl20Lower : Bool
  tbiEl20Upper : Bool
  tbiEl2 : Bool
  tbiEl3 : Bool
  /-- "Stage 2 Overlay permissions are enabled" (R242). -/
  s2Overlay : Bool
  deriving DecidableEq, Repr, Inhabited

/-- All registers the translation reads indirectly (R25 to R37, R39, R40, R55). PAR_EL1, which only AT
instructions write, stands apart in State. -/
structure SysRegs where
  ttbr0El1 : Ttbr
  ttbr1El1 : Ttbr
  ttbr0El2 : Ttbr
  ttbr1El2 : Ttbr
  ttbr0El3 : Ttbr
  vttbrEl2 : Ttbr
  vsttbrEl2 : Ttbr
  tcrEl1 : Tcr
  tcrEl2 : Tcr
  tcrEl3 : Tcr
  /-- TCR_EL3.{PnCH, PTTWI}. -/
  tcrEl3The : TheCtl
  tcr2El1 : TheCtl
  tcr2El2 : TheCtl
  /-- HCRX_EL2.PTTWI (R31). -/
  hcrxPttwi : Bool
  vtcrEl2 : Vtcr
  vstcrEl2 : Vstcr
  sctlrEl1 : Sctlr
  sctlrEl2 : Sctlr
  sctlrEl3 : Sctlr
  hcrEl2 : Hcr
  scrEl3 : Scr
  /-- RCWMASK_EL1: bit i governs bit i of the descriptor (R39). -/
  rcwmaskEl1 : BitVec 128
  /-- RCWSMASK_EL1 (R39). -/
  rcwsmaskEl1 : BitVec 128
  /-- S2POR_EL1, which can provide the MRO permission and has no other role (R40, R242). Its width is not in
  the source: 64 bits are the model's choice (DESIGN CHOICE, log 54). -/
  s2porEl1 : Word
  /-- "the appropriate MECID register values", of no effect on any value (R40, R477). How many there are
  and how wide is not in the source: one 64-bit value for all regimes is the model's choice (DESIGN
  CHOICE, log 54). -/
  mecid : Word
  unnamed : UnnamedFields
  deriving DecidableEq, Repr, Inhabited

/-- A direct write of one system register (R25, R98, R99, R573). -/
inductive SysWrite where
  | ttbr0El1 (v : Ttbr)
  | ttbr1El1 (v : Ttbr)
  | ttbr0El2 (v : Ttbr)
  | ttbr1El2 (v : Ttbr)
  | ttbr0El3 (v : Ttbr)
  | vttbrEl2 (v : Ttbr)
  | vsttbrEl2 (v : Ttbr)
  | tcrEl1 (v : Tcr)
  | tcrEl2 (v : Tcr)
  | tcrEl3 (v : Tcr) (the : TheCtl)
  | tcr2El1 (v : TheCtl)
  | tcr2El2 (v : TheCtl)
  | hcrxEl2 (pttwi : Bool)
  | vtcrEl2 (v : Vtcr)
  | vstcrEl2 (v : Vstcr)
  | sctlrEl1 (v : Sctlr)
  | sctlrEl2 (v : Sctlr)
  | sctlrEl3 (v : Sctlr)
  | hcrEl2 (v : Hcr)
  | scrEl3 (v : Scr)
  | rcwmaskEl1 (v : BitVec 128)
  | rcwsmaskEl1 (v : BitVec 128)
  | s2porEl1 (v : Word)
  | mecid (v : Word)
  | unnamed (v : UnnamedFields)
  deriving DecidableEq, Repr, Inhabited

/-- The two formats of PAR_EL1 (R38). -/
inductive ParFormat where
  | bits64
  | bits128
  deriving DecidableEq, Repr, Inhabited

/-- What PAR_EL1 holds besides its format. F is 0 for `result` and 1 for `report` (R475, R479). -/
inductive ParBody where
  /-- "The resulting OA is returned in PAR_EL1.PA, and the resulting attributes are returned in the
  other fields": the whole OA is kept (R475), and the space the OA lies in (R169). -/
  | result (pa : PAddr) (space : Space) (attrs : Attrs)
  /-- The information of a reported fault, "any value" (D12): 128 bits in either format, since its layout and its width
  are not in the source (R38, N30; DESIGN CHOICE, log 18). -/
  | report (info : BitVec 128)
  deriving DecidableEq, Repr, Inhabited

/-- PAR_EL1 (R38). -/
structure Par where
  format : ParFormat
  body : ParBody
  deriving DecidableEq, Repr, Inhabited

/-- PAR_EL1.F: 0 after a successful translation (R475), 1 for a reported fault (R479, derived). -/
def Par.f (p : Par) : Bool :=
  match p.body with
  | .result _ _ _ => false
  | .report _ => true

end Sys2Proof.Machine
end

