-- ==== Sys2Proof/Config.lean ====
section
/-! DEFINITION. What an implementation fixes (the launch parameters of spec/00_scope.md R7, plain data held in State)
and the free values: constants without a body, of which nothing can be proved. -/

namespace Sys2Proof.Machine

/-- Where the default `DecodeDesc` of R143 finds the bits whose positions "a model should keep
parameters" (R143) or whose derivation is outside the source (R240, R247): `none` leaves the bit to a
free function of the raw value. -/
structure DescLayout where
  validBit : Option Nat
  protectedBit : Option Nat
  assuredOnlyBit : Option Nat
  mroBit : Option Nat
  topLevel0Bit : Option Nat
  topLevel1Bit : Option Nat
  /-- Valid and Protected bits of a 128-bit descriptor, for the RCW checks (R223). -/
  valid128Bit : Option Nat
  protected128Bit : Option Nat
  deriving DecidableEq, Repr, Inhabited

/-- One row of a `DecodeDesc` given by its values: this raw value, read by this stage of this system,
decodes to this descriptor (R14). -/
structure DescRow where
  system : System
  stage : Stage
  raw : Raw
  desc : Desc
  deriving DecidableEq, Repr, Inhabited

/-- The points the source leaves open and the spec calls OPEN or refuses (R7; D7, D31, D34). -/
inductive OpenPoint where
  /-- TnSZ or T0SZ in no row of the start-level table (D7). -/
  | tnszOutOfRange
  /-- An IPA with bits above the stage 2 input size (D31). -/
  | s2InputOutOfRange
  /-- A VA above the single range of the EL2 or EL3 regime (D34). -/
  | oneRangeVa
  deriving DecidableEq, Repr, Inhabited

/-- What the implementation does at an open point: the model refuses (the spec's default), a fault, or a
free outcome. The fault is an Address size or a Translation fault: a Permission or Access flag fault
enters through `CheckPerms` alone (R504, R505). A level is given as its distance from -2. -/
inductive OpenBehaviour where
  | refuse
  | faults (addressSize : Bool) (level : Fin 6)
  | free
  deriving DecidableEq, Repr, Inhabited

/-- A free outcome of an open point: a fault, or all of a stage's result. -/
inductive OpenOutcome where
  | fault (addressSize : Bool) (level : Fin 6)
  | ok (oa : PAddr) (space : Space) (attrs : Attrs) (perms : Perms) (level : Fin 6)
      (assured assuredOnly topLevel0 topLevel1 mro : Bool)
  deriving DecidableEq, Repr, Inhabited

/-- `ATFaultReport` (R7, R479, D12): every fault reported in PAR_EL1, every fault taken as an exception,
or an unknown function of the operation and the fault. -/
inductive AtFaultPolicy where
  | report
  | exception
  | parameter
  deriving DecidableEq, Repr, Inhabited

/-- The launch parameters (R7): Booleans for the features of R3, and the implementation's choices. No
step changes them. -/
structure Launch where
  featE0pd : Bool
  featThe : Bool
  featEts2 : Bool
  featEts3 : Bool
  featRme : Bool
  featTtst : Bool
  featLpa : Bool
  featLva : Bool
  featXs : Bool
  featMte2 : Bool
  featPan2 : Bool
  featAts1a : Bool
  haveEl2 : Bool
  haveEl3 : Bool
  /-- The Security state of a PE without EL3 (R471), of those it has (`Launch.stateWithoutEl3`). -/
  ssNoEl3 : SecState
  paSize : BitVec 6
  minGranule : Granule
  /-- `PTTWI_RO0`, one for each PTTWI bit (R117). -/
  ro0Tcr2El1 : Bool
  ro0Tcr2El2 : Bool
  ro0TcrEl3 : Bool
  ro0Hcrx : Bool
  atMayUseTlb : Bool
  /-- An unprivileged access made from EL1 counts as an EL0 access (R195: "not in the source"). -/
  e0pdUnprivileged : Bool
  /-- VMSAv8-64 descriptors are decoded by R143; else by the free function. -/
  defaultDecode : Bool
  layout : DescLayout
  /-- Descriptors whose decoding the launch fixes by value; these rows come first. -/
  descRows : List DescRow
  /-- `CheckPerms` is the identity (R511); else the free function. -/
  checkPermsIdentity : Bool
  atFaults : AtFaultPolicy
  tnszOutOfRange : OpenBehaviour
  s2InputOutOfRange : OpenBehaviour
  oneRangeVa : OpenBehaviour
  deriving DecidableEq, Repr, Inhabited

/-- What `CheckPerms` is asked (R511): the result, the access, the context, and PSTATE.PAN where the
access considers it (false where it disregards it; the access's own mark is then cleared). Whether the
result was returned as a PA or an IPA is no part of it: `isPa` is true. -/
structure PermQuery where
  result : TransOk
  el : EL
  ss : SecState
  regime : Regime
  acc : Access
  pan : Bool
  deriving DecidableEq, Repr, Inhabited

/-- The fault `CheckPerms` may give: Permission or Access flag, with a stage and a level (R511). -/
structure PermVerdict where
  accessFlag : Bool
  stage : Stage
  level : Fin 6
  deriving DecidableEq, Repr, Inhabited

/-- Where a choice between permitted outcomes is made. `ctx` is the stage 1 lookup level a stage 2 walk
serves, 4 for the final IPA and for stage 1 itself. -/
inductive ChoicePoint where
  /-- How many of the pending TTBR writes a translation observes (R98, R99). -/
  | ttbrPrefix (p : Purpose)
  /-- Which of the other pending register writes it observes (R573). -/
  | regMask (p : Purpose)
  /-- Which TLB entry answers, or a walk (R210, R474). -/
  | tlb (p : Purpose) (stage : Stage) (ia : Nat) (ctx : Int)
  /-- Which of the pending writes a descriptor read observes (R95, R115). -/
  | mem (p : Purpose) (stage : Stage) (ia : Nat) (level : Int) (da : Nat) (ctx : Int)
  /-- Which EE a descriptor read uses while a write of SCTLR_ELx waits (R87, R574). -/
  | ee (p : Purpose) (stage : Stage) (ia : Nat) (level : Int) (da : Nat) (ctx : Int)
  /-- Which of the other agents' pending writes a fetch observes (R102). -/
  | fetch (pa : Nat)
  /-- Which value an unsynchronised read of PAR_EL1 returns (R577). -/
  | parRead
  /-- In which order the bytes of a misaligned access are made (R95). -/
  | byteOrder
  /-- Which value of PTTWI an RCWS write uses when a TLB holds another (R118). -/
  | pttwi
  deriving DecidableEq, Repr, Inhabited

namespace Config

/-- FREE. The choice made at a point where the source permits several outcomes; `n` counts the
machine's draws. -/
opaque choose : (n : Nat) → ChoicePoint → Nat

/-- FREE. `DecodeDesc` (R14, D8): wholly a parameter for VMSAv9-128 (R143). -/
opaque decodeDesc : DecodeCtx → Raw → Desc

/-- FREE. `RawValid` where no bit position is launched (R223), of the whole raw value, its Protected bit included (log
20). -/
opaque rawValid : System → Raw → Bool

/-- FREE. Which bit is the Protected bit, where the launch gives no position: "not in the source" (R223). -/
opaque protectedBit : System → Nat

/-- FREE. The AssuredOnly field of a stage 2 descriptor where no bit position is launched (R243). -/
opaque stage2AssuredOnly : Raw → Bool

/-- FREE. The MRO permission of a stage 2 descriptor where no bit position is launched (R240). -/
opaque stage2Mro : Raw → Bool

/-- FREE. S2OverlayPerm: the MRO permission that the descriptor and S2POR_EL1 provide where Stage 2 Overlay
permissions are enabled (R242). -/
opaque overlayMro : Raw → (s2por : Word) → Bool

/-- FREE. The TopLevel0 permission of a stage 2 descriptor where no bit position is launched (R247). -/
opaque stage2TopLevel0 : Raw → Bool

/-- FREE. The TopLevel1 permission of a stage 2 descriptor where no bit position is launched (R247). -/
opaque stage2TopLevel1 : Raw → Bool

/-- FREE. The output space a final descriptor asks for: "a descriptor field not in the source" (R111). -/
opaque leafSpace : DecodeCtx → Raw → Space

/-- FREE. How hierarchical permissions accumulate (R166, D15). -/
opaque accumulateHier : Hier → Hier → Hier

/-- FREE. How hierarchical permissions combine with the final ones (R166, D15). -/
opaque combinePerms : Hier → Perms → Perms

/-- FREE. How stage 2 combines attributes with stage 1's (R425). -/
opaque combineAttrs : Attrs → Attrs → Attrs

/-- FREE. Whether an opaque attribute label means Device memory (R94). -/
opaque isDevice : Raw → Bool

/-- FREE. Whether an opaque attribute label is the Cacheability and Shareability of table lookups: what
makes attributes mismatched is outside the source (R93). -/
opaque labelMatches : Raw → TableAttrs → Bool

/-- FREE. `CheckPerms` (R511): `none` permits the access. -/
opaque checkPerms : PermQuery → Option PermVerdict

/-- FREE. Whether using a final descriptor with these permissions can give an Access flag fault of its
stage: such an entry is never cached (R70, R210, R505). -/
opaque accessFlag : Stage → Perms → Bool

/-- FREE. Whether a misaligned access to memory of these attributes gives an Alignment fault: they "can be
generated" (R421, R512, U10). -/
opaque alignmentFault : (n : Nat) → Attrs → (va : Word) → (bytes : Nat) → AccessKind → Bool

/-- FREE. `ATFaultReport`: true when the fault is reported in PAR_EL1 (R479, D12). -/
opaque atFaultReported : AtForm → MmuFault → Bool

/-- FREE. The fault information PAR_EL1 holds: "no layout in the source: any value" (D12). -/
opaque parFaultInfo : (n : Nat) → AtForm → MmuFault → BitVec 128

/-- FREE. The outcome at an open point the launch leaves free (D7, D31, D34). -/
opaque openOutcome : (n : Nat) → OpenPoint → Stage → (ia : Nat) → OpenOutcome

end Config

end Sys2Proof.Machine
end

