-- ==== Sys2Proof/WellFormed.lean ====
section
/-! DEFINITION. Which operands and operation names the syntax admits (spec/30_encoding.md R131, R132, R134). -/

namespace Sys2Proof

/-- "31 registers X0 to X30" (G3): a register number above 30 names no `<Xt>`. -/
def XReg.wellFormed : XReg → Bool
  | .x n => n < 31
  | .zr => true

/-- An instruction is well formed when its operand is: the operation is fixed by the constructor. -/
def Instr.wellFormed (i : Instr) : Bool := i.xt.wellFormed

/-- The rule for `<pan>` of R131: "If `<stages>` = S1 and `<el>` = E1, the field is permitted. If
`<stages>` != S1 or `<el>` != E1, the field is not permitted." -/
def AtForm.panPermitted (f : AtForm) : Bool :=
  !f.pan || (f.stages == .s1 && f.el == .e1)

/-- An operation is a name of the list of R132. -/
def AtForm.listed (f : AtForm) : Bool := operations.contains f

end Sys2Proof
end

