-- ==== Sys2Proof/Decode.lean ====
section
/-! DEFINITION. The decoder, total on any bytes, and the encoder of the seventeen AT instructions, from the opcode map
of spec/30_encoding.md R134 and R136 (general knowledge of the spec, G2). -/

namespace Sys2Proof

/-- Why bytes are no instruction of this model. Each is safe: the bytes get no meaning. -/
inductive DecodeError where
  /-- Fewer than the four bytes of an A64 word (R134). -/
  | tooShort (have_ : Nat)
  /-- Bits 31:19 are not 1101010100001: not in the SYS space (R134). -/
  | notSys (w : BitVec 32)
  /-- CRn is not 0111: a SYS instruction other than AT (R134). -/
  | notAtSpace (w : BitVec 32)
  /-- {op1, CRm, op2} is in no row of R136. -/
  | noOperation (op1 : BitVec 3) (crm : BitVec 4) (op2 : BitVec 3)
  deriving DecidableEq, Repr, Inhabited

/-- The field Rt: register number 31 reads as the zero register (R134). -/
def decodeXt (n : BitVec 5) : XReg := if n = 31#5 then .zr else .x n.toNat

/-- The opcode map of R136, by op1, CRm and op2. -/
def decodeOp (op1 : BitVec 3) (crm : BitVec 4) (op2 : BitVec 3) (t : XReg) : Option Instr :=
  match op1, crm, op2 with
  | 0b000#3, 0b1000#4, 0b000#3 => some (.atS1E1R t)
  | 0b000#3, 0b1000#4, 0b001#3 => some (.atS1E1W t)
  | 0b000#3, 0b1000#4, 0b010#3 => some (.atS1E0R t)
  | 0b000#3, 0b1000#4, 0b011#3 => some (.atS1E0W t)
  | 0b000#3, 0b1001#4, 0b000#3 => some (.atS1E1RP t)
  | 0b000#3, 0b1001#4, 0b001#3 => some (.atS1E1WP t)
  | 0b000#3, 0b1001#4, 0b010#3 => some (.atS1E1A t)
  | 0b100#3, 0b1000#4, 0b000#3 => some (.atS1E2R t)
  | 0b100#3, 0b1000#4, 0b001#3 => some (.atS1E2W t)
  | 0b100#3, 0b1000#4, 0b100#3 => some (.atS12E1R t)
  | 0b100#3, 0b1000#4, 0b101#3 => some (.atS12E1W t)
  | 0b100#3, 0b1000#4, 0b110#3 => some (.atS12E0R t)
  | 0b100#3, 0b1000#4, 0b111#3 => some (.atS12E0W t)
  | 0b100#3, 0b1001#4, 0b010#3 => some (.atS1E2A t)
  | 0b110#3, 0b1000#4, 0b000#3 => some (.atS1E3R t)
  | 0b110#3, 0b1000#4, 0b001#3 => some (.atS1E3W t)
  | 0b110#3, 0b1001#4, 0b010#3 => some (.atS1E3A t)
  | _, _, _ => none

/-- Decode one 32-bit word by the fields of R134: [31:19] fixed, op1 [18:16], CRn [15:12], CRm [11:8],
op2 [7:5], Rt [4:0]. -/
def decode (w : BitVec 32) : Except DecodeError Instr :=
  if w.extractLsb' 19 13 ≠ 0b1101010100001#13 then .error (.notSys w)
  else if w.extractLsb' 12 4 ≠ 0b0111#4 then .error (.notAtSpace w)
  else
    match decodeOp (w.extractLsb' 16 3) (w.extractLsb' 8 4) (w.extractLsb' 5 3)
        (decodeXt (w.extractLsb' 0 5)) with
    | some i => .ok i
    | none => .error (.noOperation (w.extractLsb' 16 3) (w.extractLsb' 8 4) (w.extractLsb' 5 3))

/-- A little-endian 32-bit word from four bytes, the lowest address first (R134, G2). -/
def wordOfBytes (b0 b1 b2 b3 : Byte) : BitVec 32 := b3 ++ b2 ++ b1 ++ b0

/-- The four bytes of a word as memory holds them, the lowest address first (R134, G2). -/
def bytesOfWord (w : BitVec 32) : List Byte :=
  [w.extractLsb' 0 8, w.extractLsb' 8 8, w.extractLsb' 16 8, w.extractLsb' 24 8]

/-- Decode the first instruction of a list of bytes and give the bytes after it. -/
def decodeBytes : List Byte → Except DecodeError (Instr × List Byte)
  | b0 :: b1 :: b2 :: b3 :: rest =>
    match decode (wordOfBytes b0 b1 b2 b3) with
    | .ok i => .ok (i, rest)
    | .error e => .error e
  | short => .error (.tooShort short.length)

/-- The register number of `<Xt>` in the field Rt (R134). -/
def encodeXt : XReg → BitVec 5
  | .x n => BitVec.ofNat 5 n
  | .zr => 31#5

/-- The fields op1, CRm, op2 of each operation (R136). -/
def encodeOp : Instr → BitVec 3 × BitVec 4 × BitVec 3
  | .atS1E1R _ => (0b000#3, 0b1000#4, 0b000#3)
  | .atS1E1W _ => (0b000#3, 0b1000#4, 0b001#3)
  | .atS1E0R _ => (0b000#3, 0b1000#4, 0b010#3)
  | .atS1E0W _ => (0b000#3, 0b1000#4, 0b011#3)
  | .atS1E1RP _ => (0b000#3, 0b1001#4, 0b000#3)
  | .atS1E1WP _ => (0b000#3, 0b1001#4, 0b001#3)
  | .atS1E1A _ => (0b000#3, 0b1001#4, 0b010#3)
  | .atS1E2R _ => (0b100#3, 0b1000#4, 0b000#3)
  | .atS1E2W _ => (0b100#3, 0b1000#4, 0b001#3)
  | .atS12E1R _ => (0b100#3, 0b1000#4, 0b100#3)
  | .atS12E1W _ => (0b100#3, 0b1000#4, 0b101#3)
  | .atS12E0R _ => (0b100#3, 0b1000#4, 0b110#3)
  | .atS12E0W _ => (0b100#3, 0b1000#4, 0b111#3)
  | .atS1E2A _ => (0b100#3, 0b1001#4, 0b010#3)
  | .atS1E3R _ => (0b110#3, 0b1000#4, 0b000#3)
  | .atS1E3W _ => (0b110#3, 0b1000#4, 0b001#3)
  | .atS1E3A _ => (0b110#3, 0b1001#4, 0b010#3)

/-- The word of an instruction: 1101010100001 : op1 : 0111 : CRm : op2 : Rt (R134). -/
def encode (i : Instr) : BitVec 32 :=
  0b1101010100001#13 ++ (encodeOp i).1 ++ 0b0111#4 ++ (encodeOp i).2.1 ++ (encodeOp i).2.2 ++ encodeXt i.xt

/-- What the decoder reads from an instruction whose bits are `w`, `nbits` of them given by the opcode
table: the bits above `nbits` are 0, and the word is laid out as memory holds it. -/
def decodeTableWord (nbits w : Nat) : Option Instr :=
  match decodeBytes (bytesOfWord (BitVec.ofNat 32 (w % 2 ^ nbits))) with
  | .ok (i, _) => some i
  | .error _ => none

end Sys2Proof
end

