-- ==== Sys2Proof/Machine/State.lean ====
section
/-! DEFINITION. The machine's state as plain data, the reasons a step can stop, the inputs the environment gives, and
the state after reset (spec/10_state.md, 60_exceptions.md R500 to R527, 70_reset_and_hazards.md R560). -/

namespace Sys2Proof.Machine

/-- Why the machine stops with a fault. -/
inductive Fault where
  /-- The instruction is UNDEFINED (R520): raised by an AT instruction in a case of R137, and by an RCW
  or RCWS update without FEAT_THE (R220). "This spec ends the step with the outcome `Undefined`"; no
  state changes. Safe: what the PE does next is not in the source. -/
  | undefined
  /-- An MMU fault that generates an exception (R479, R525): raised by an AT instruction whose fault
  `ATFaultReport` does not report, and by a fetch. Safe: nothing of the exception's entry is in the
  source. -/
  | mmuException (f : MmuFault)
  /-- A physical address at or above 2^PAsize, which R22 does not make addressable, or in a space that the
  PE has not (R21): raised by a descriptor read, a fetch, an explicit access, another agent's write and an
  RCW or RCWS update. Safe. -/
  | noSuchAddress (space : Space) (pa : Nat)
  /-- A walk made more lookups than there are levels. Raised by no walk (an obligation says so). Safe. -/
  | walkTooLong
  deriving DecidableEq, Repr, Inhabited

/-- Why a step is refused: it has no meaning in the source. -/
inductive Refusal where
  /-- The instruction has no meaning in this model yet. Safe. -/
  | notModelled (mnemonic : String)
  /-- The fetched bytes are no AT instruction: the rest of A64 is out of scope (R6). Safe. -/
  | notAt (e : DecodeError)
  /-- An open point, where the launch takes the spec's default (D7, D31, D34). Safe. -/
  | openPoint (p : OpenPoint)
  /-- The PE is below EL3 and SCR_EL3.{NSE, NS} is {1, 0}, "no state" (R37): raised by a fetch, by an
  explicit access or another event that translates, and by an RCW or RCWS update. Safe. -/
  | noSecurityState
  /-- A stage 1 descriptor address maps to Device memory at stage 2 (R94, D16). Safe. -/
  | deviceTable
  /-- The walker's attributes for a table differ from those software's access to it used (R93, D16): raised by
  the later of the two, the descriptor read or the explicit access. Safe. -/
  | mismatchedAttributes
  /-- A fetch of a location the program wrote (R121, D27). Safe. -/
  | selfModifying
  /-- A speculative fetch outside the bound of R433: "any fetch the bound allows and no other" (U15).
  Safe. -/
  | fetchBeyondBound
  /-- A context that no PE of these launch parameters has. Safe. -/
  | noSuchContext
  deriving DecidableEq, Repr, Inhabited

/-- An explicit write that walks are not yet guaranteed to observe (R95, R96): the bytes one
single-copy atomic write put in memory, keyed as memory is. -/
structure PendingWrite where
  cells : List Host.Cell
  /-- The Reduced Coherence property (R113). -/
  reduced : Bool
  /-- Made by this PE, whose DSB counts (R96). -/
  own : Bool
  /-- Made by an Advanced SIMD, floating-point, SVE or SME instruction (R100). -/
  simd : Bool
  /-- A later explicit read of this PE, not by such an instruction, returned a byte of it: that read is an
  Explicit Memory Effect too (R100). -/
  readBack : Bool
  /-- A barrier has ordered it: a Reduced Coherence write, which waits on because walks may ignore it (R96, R115). A
  walk of a regime that R115 does not apply to observes it for certain (R117). -/
  settled : Bool
  deriving DecidableEq, Repr, Inhabited

/-- An explicit access software made: the bytes, keyed as memory is, the attributes its translation gave
(R93), and whether it wrote (R121). -/
structure SoftAccess where
  key : Nat
  bytes : Nat
  attrs : Attrs
  written : Bool
  deriving DecidableEq, Repr, Inhabited

/-- A descriptor that a walk read: its bytes, keyed as memory is, and the attributes of the lookup (R92, R93). -/
structure TableRead where
  key : Nat
  bytes : Nat
  attrs : TableAttrs
  deriving DecidableEq, Repr, Inhabited

/-- What an explicit access is made with: "other instructions appear as inputs (an access record)" (D1). -/
structure ExplicitAccess where
  va : Word
  /-- The access is of 2^size bytes, size 0 to 4. -/
  size : Fin 5
  privileged : Bool
  gcs : Bool
  /-- The access considers PSTATE.PAN: an input, since the source says so of AT S1E1RP and AT S1E1WP alone (R52;
  DESIGN CHOICE, log 68). -/
  usePan : Bool
  simd : Bool
  deriving DecidableEq, Repr, Inhabited

/-- What the rest of the system does between two AT instructions: the instructions the source names
without defining (R140), the other agents of R17, and the questions a client asks the translation
process. -/
inductive Event where
  /-- Translate an address as an access of the current context would be (R160). -/
  | translate (acc : Access) (va : Word)
  /-- `MemRead` (R13). -/
  | memRead (a : ExplicitAccess)
  /-- `MemWrite` (R13). -/
  | memWrite (a : ExplicitAccess) (v : BitVec 128)
  /-- A write by another agent (R545), to bytes of one PA space. It has the Reduced Coherence property where that
  agent is a PE, its instruction is an RCWS and PTTWI is 1 on it (R113). -/
  | otherWrite (space : Space) (pa : PAddr) (bytes : List Byte) (reduced : Bool)
  /-- The other agents' barrier: their writes become observable. -/
  | otherDsb
  /-- `DSB` (R96). -/
  | dsb
  /-- `ISB`, a Context synchronization event (R99, R103). -/
  | isb
  /-- A direct write of a system register (R99), at any Exception level (DESIGN CHOICE, log 66). -/
  | directWrite (w : SysWrite)
  /-- A direct read of PAR_EL1 (R577), at any Exception level (DESIGN CHOICE, log 66). -/
  | readPar
  /-- An RCW instruction (`sw` false) or RCWS instruction (`sw` true) that would replace the 8-byte
  (`wide` false) or 16-byte descriptor number `slot` of a space by `new`, with the attributes of its
  access (R226, R235). -/
  | rcw (sw wide : Bool) (space : Space) (slot : Nat) (new : Raw) (attrs : Attrs)
  /-- The TLB gains those entries of a permitted walk whose number is in `keep` (R70, D10). -/
  | tlbFill (acc : Access) (regime : Regime) (va : Word) (keep : Nat)
  /-- The TLB loses its entry number `n` (R70, D10). -/
  | tlbEvict (n : Nat)
  /-- A direct branch taken in simple sequential execution (R433), to word number `target`. -/
  | directBranch (target : BitVec 62)
  /-- Synchronization of instruction cache maintenance targeting an instruction address (R433). -/
  | icacheSync (va : Word)
  /-- A speculative instruction fetch (R433, R434). -/
  | speculativeFetch (va : Word)
  /-- A cache maintenance instruction by address (R436, R437). -/
  | cacheMaintenance (va : Word)
  /-- The PE's context becomes another: how is not in the source (R24, R530). -/
  | context (el : EL) (pan : Bool)
  /-- Another instruction writes a general register (D2). -/
  | writeX (t : Fin 31) (v : Word)
  deriving DecidableEq, Repr, Inhabited

/-- What the last event answered. The model's own field: it is where the translation process puts the
result it returns (R160), and a direct read its value. -/
inductive Output where
  | none
  | translation (r : TransResult)
  | loaded (v : BitVec 128)
  | parValue (p : Par)
  | rcwUpdated (b : Bool)
  deriving DecidableEq, Repr, Inhabited

/-- The machine. -/
structure State where
  /-- Launch parameters (R7). -/
  launch : Launch
  /-- General registers X0 to X30 (R60, G3). -/
  xs : Vector Word 31
  /-- Program counter (R61: not state of the spec; general knowledge). -/
  pc : Word
  /-- Current Exception level (R24). -/
  el : EL
  /-- PSTATE.PAN (R52). -/
  pan : Bool
  /-- System registers as the last Context synchronization event left them (R25, R99). -/
  regs : SysRegs
  /-- Direct writes since, in program order (R98, R99). -/
  pendingRegs : List SysWrite
  /-- PAR_EL1 (R38). -/
  par : Par
  /-- Values of PAR_EL1 an unsynchronised direct read may still return (R577). -/
  parStale : List Par
  /-- Physical memory as walks are guaranteed to observe it, keyed by PA space and PA (R22). -/
  mem : List Host.Cell
  /-- Explicit writes not yet guaranteed to be observed, oldest first (R95, R115). -/
  pendingWrites : List PendingWrite
  /-- Software's explicit accesses, the latest first (R93, R121). -/
  softAccesses : List SoftAccess
  /-- The descriptors walks have read, the latest first (R93, R579). -/
  tableReads : List TableRead
  /-- The TLB (R70). -/
  tlb : List TlbEntry
  /-- The regions holding instructions executed since the last reset (R433). -/
  executed : List Nat
  /-- Taken direct branches, source and target, since the last reset or synchronization (R433). -/
  branches : List (Nat × Nat)
  /-- What the environment will do before the next AT instruction. -/
  inputs : List Event
  /-- The last event's answer. -/
  output : Output
  /-- How many times the free choices have been drawn: the model's own counter. -/
  draws : Nat
  deriving DecidableEq, Repr

/-- The launch parameters of `State.reset`: a DESIGN CHOICE in every field (log 2). -/
def Launch.atReset : Launch where
  featE0pd := true
  featThe := true
  featEts2 := true
  featEts3 := true
  featRme := true
  featTtst := true
  featLpa := true
  featLva := true
  featXs := true
  featMte2 := true
  featPan2 := true
  featAts1a := true
  haveEl2 := true
  haveEl3 := true
  ssNoEl3 := .nonSecure
  paSize := 52
  minGranule := .g4K
  ro0Tcr2El1 := false
  ro0Tcr2El2 := false
  ro0TcrEl3 := false
  ro0Hcrx := false
  atMayUseTlb := true
  e0pdUnprivileged := true
  defaultDecode := true
  layout := ⟨some 0, some 52, some 58, none, none, none, none, none⟩
  descRows := []
  checkPermsIdentity := false
  atFaults := .parameter
  tnszOutOfRange := .free
  s2InputOutOfRange := .free
  oneRangeVa := .free

/-- A base register of zeros. -/
def Ttbr.zero : Ttbr := ⟨0, 0, 0⟩

/-- The attributes of table lookups at reset, the family's encoding of zeros: Normal Non-cacheable,
Non-shareable (PRESUMED, log 3). -/
def TableAttrs.zero : TableAttrs := ⟨.nonCacheable, .nonCacheable, .nonShareable⟩

/-- A stage 1 control register of zeros, with the 4KB granule. -/
def Tcr.zero : Tcr := ⟨0, 0, .g4K, .g4K, false, false, false, false, false, false, false, false, .zero, .zero⟩

/-- The system registers after reset: the source gives no value for any of them (R75, R560); every one
is zero here, a DESIGN CHOICE (log 3). -/
def SysRegs.atReset : SysRegs where
  ttbr0El1 := .zero
  ttbr1El1 := .zero
  ttbr0El2 := .zero
  ttbr1El2 := .zero
  ttbr0El3 := .zero
  vttbrEl2 := .zero
  vsttbrEl2 := .zero
  tcrEl1 := .zero
  tcrEl2 := .zero
  tcrEl3 := .zero
  tcrEl3The := ⟨false, false⟩
  tcr2El1 := ⟨false, false⟩
  tcr2El2 := ⟨false, false⟩
  hcrxPttwi := false
  vtcrEl2 := ⟨0, 0, false, .g4K, false, false, false, false, false, false, false, .zero⟩
  vstcrEl2 := ⟨0, 0, false, .g4K, false, false⟩
  sctlrEl1 := ⟨false, false, false⟩
  sctlrEl2 := ⟨false, false, false⟩
  sctlrEl3 := ⟨false, false, false⟩
  hcrEl2 := ⟨false, false, false, false⟩
  scrEl3 := ⟨false, false⟩
  rcwmaskEl1 := 0
  rcwsmaskEl1 := 0
  s2porEl1 := 0
  mecid := 0
  unnamed :=
    { sysEl10 := .vmsav8, sysEl20 := .vmsav8, sysEl2 := .vmsav8, sysEl3 := .vmsav8, sysStage2 := .vmsav8
      oaEl10 := 48, oaEl20 := 48, oaEl2 := 48, oaEl3 := 48, oaStage2 := 48
      el2EnabledSecure := true, el2EnabledNonSecure := true
      el2HasEl20 := ⟨false, false, false⟩, el0InEl20 := ⟨false, false, false⟩
      tbiEl10Lower := false, tbiEl10Upper := false, tbiEl20Lower := false, tbiEl20Upper := false
      tbiEl2 := false, tbiEl3 := false, s2Overlay := false }

/-- The machine right after reset. "The source gives no reset value for any register, field, flag, TLB
content or memory location" (R75): every value here is a DESIGN CHOICE of logs 2 to 6. -/
def State.reset : State where
  launch := Launch.atReset
  xs := Vector.replicate 31 0
  pc := 0
  el := .el3
  pan := false
  regs := SysRegs.atReset
  pendingRegs := []
  par := ⟨.bits64, .result 0 .nonSecure (.label 0)⟩
  parStale := []
  mem := []
  pendingWrites := []
  softAccesses := []
  tableReads := []
  tlb := []
  executed := []
  branches := []
  inputs := []
  output := .none
  draws := 0

/-- The result of a part of a step: a value, an MMU fault, or a reason the machine stops. -/
inductive Res (α : Type) where
  | ok (a : α)
  | mmu (f : MmuFault)
  | stop (f : Fault)
  | refuse (r : Refusal)
  deriving DecidableEq, Repr, Inhabited

end Sys2Proof.Machine
end

