-- ==== Sys2Proof/Machine/Ops.lean ====
section
/-! DEFINITION. The named operations over memory, registers and the machine's choices, and the one operation that ends
a step in an exception (spec/20_memory.md section 1 and 5; 60_exceptions.md R520, R525). -/

namespace Sys2Proof.Machine

/-! ### Memory: a map from (PA space, PA) to bytes (R22) -/

/-- What a byte of memory reads as that nothing has written: DESIGN CHOICE (log 5). -/
def memDefault : Byte := 0

/-- The key of a location, the pair (PA space, PA) (R21). -/
def memKey (sp : Space) (pa : Nat) : Nat := sp.toNat * 2 ^ 56 + pa

/-- Read one byte by its key. -/
def memRead : List Host.Cell → Nat → Byte
  | [], _ => memDefault
  | (a, b) :: rest, k => if a = k then b else memRead rest k

/-- Write one byte by its key and keep the canonical form. -/
def memWrite : List Host.Cell → Nat → Byte → List Host.Cell
  | [], k, v => if v = memDefault then [] else [(k, v)]
  | (a, b) :: rest, k, v =>
    if k < a then (if v = memDefault then (a, b) :: rest else (k, v) :: (a, b) :: rest)
    else if k = a then (if v = memDefault then rest else (k, v) :: rest)
    else (a, b) :: memWrite rest k v

/-- The canonical form: keys strictly rising, and no byte equal to what an unlisted one reads as. -/
def Memory.wf : List Host.Cell → Bool
  | [] => true
  | [c] => c.2 != memDefault
  | c :: d :: rest => c.1 < d.1 && c.2 != memDefault && Memory.wf (d :: rest)

/-- Write a list of bytes by their keys. -/
def memWriteCells (m : List Host.Cell) (cells : List Host.Cell) : List Host.Cell :=
  cells.foldr (fun c m => memWrite m c.1 c.2) m

/-- The cells that `bytes` occupy from a key on. -/
def cellsFrom : Nat → List Byte → List Host.Cell
  | _, [] => []
  | k, b :: rest => (k, b) :: cellsFrom (k + 1) rest

/-- The byte a list of cells gives a key, if any. -/
def cellLookup : List Host.Cell → Nat → Option Byte
  | [], _ => none
  | (a, b) :: rest, k => if a = k then some b else cellLookup rest k

/-- The number of PA bits the machine addresses: "every byte of every PA space below 2^PAsize" (R22), a
PA being below 2^56 (R20). -/
def physBits (l : Launch) : Nat := min l.paSize.toNat 56

/-- The PA space exists: "The Realm and Root spaces exist only if FEAT_RME is implemented" (R21). -/
def spaceExists (l : Launch) (sp : Space) : Bool :=
  match sp with
  | .secure => true
  | .nonSecure => true
  | .realm => l.featRme
  | .root => l.featRme

/-- `n` bytes from `pa` on exist in a space. -/
def physExists (l : Launch) (sp : Space) (pa n : Nat) : Bool := spaceExists l sp && pa + n ≤ 2 ^ physBits l

/-! ### Pending writes: what a read may observe (R80, R95, R96, R115) -/

/-- A write puts a byte in the `n` bytes from key `k` on. -/
def PendingWrite.overlaps (w : PendingWrite) (k n : Nat) : Bool :=
  w.cells.any fun c => k ≤ c.1 && c.1 < k + n

/-- The byte at a key after those writes of the list, oldest first, whose bit is set in `mask`: each write
is seen whole or not at all, the later over the earlier (R83). -/
def observedByte (m : List Host.Cell) : List PendingWrite → Nat → Nat → Byte → Byte
  | [], _, _, acc => acc
  | w :: ws, mask, k, acc =>
    let acc' := if mask.testBit 0 then (cellLookup w.cells k).getD acc else acc
    observedByte m ws (mask / 2) k acc'

/-- `n` bytes from key `k` on, as the writes in `mask` leave them. -/
def observedBytes (m : List Host.Cell) (ws : List PendingWrite) (mask k : Nat) : Nat → List Byte
  | 0 => []
  | n + 1 => observedByte m ws mask k (memRead m k) :: observedBytes m ws mask (k + 1) n

/-- The mask of a read: with no pending write to the location there is nothing to choose. -/
def chooseMask (draws : Nat) (pt : ChoicePoint) (ws : List PendingWrite) : Nat :=
  match ws with
  | [] => 0
  | _ :: _ => Config.choose draws pt

/-- The value of bytes, the lowest address first, little-endian (R82, EE = 0). -/
def littleEndian : List Byte → Nat
  | [] => 0
  | b :: rest => b.toNat + 256 * littleEndian rest

/-- The value of bytes as the walker reads them: EE = 0 little-endian, EE = 1 big-endian (R82, R86). -/
def valueOfBytes (ee : Bool) (bs : List Byte) : Nat := littleEndian (if ee then bs.reverse else bs)

/-- The `n` bytes of a value, the lowest address first, little-endian. -/
def bytesOfValue : Nat → Nat → List Byte
  | 0, _ => []
  | n + 1, v => BitVec.ofNat 8 v :: bytesOfValue n (v / 256)

/-- The `n` bytes of a descriptor value in the byte order `ee` (R82). -/
def bytesOfDesc (ee : Bool) (n v : Nat) : List Byte :=
  if ee then (bytesOfValue n v).reverse else bytesOfValue n v

/-- The write puts a byte at a key. -/
def PendingWrite.covers (w : PendingWrite) (k : Nat) : Bool := (cellLookup w.cells k).isSome

/-- One of the writes, all later in coherence order, is ordered before the reads to come and puts a byte at
the key. -/
def laterOrdered (ord : PendingWrite → Bool) (ws : List PendingWrite) (k : Nat) : Bool :=
  ws.any fun v => ord v && v.covers k

/-- A byte of a write that the reads to come observe or see replaced: the write, or a later one, is ordered
before them, and it has not the Reduced Coherence property. In front of an ordered Reduced Coherence write
it is the write W1 of R115, which a walk may observe instead. -/
def commits (ord : PendingWrite → Bool) (w : PendingWrite) (ws : List PendingWrite) (k : Nat) : Bool :=
  !w.reduced && (ord w || laterOrdered ord ws k)

/-- A byte of a write that a read to come may observe or not: no later write of it is ordered before the
reads, and the write itself is not, or has the Reduced Coherence property (R95, R115). -/
def keeps (ord : PendingWrite → Bool) (w : PendingWrite) (ws : List PendingWrite) (k : Nat) : Bool :=
  !laterOrdered ord ws k && (w.reduced || !ord w)

/-- With the writes that satisfy `ord` ordered before the reads to come, what those observe of the writes for
certain (R96, R115). -/
def orderedPart (ord : PendingWrite → Bool) : List PendingWrite → List PendingWrite
  | [] => []
  | w :: ws => { w with cells := w.cells.filter fun c => commits ord w ws c.1 } :: orderedPart ord ws

/-- With the writes that satisfy `ord` ordered before the reads to come, what those may observe of the writes
or not (R95, R115): each write in its place in the list, with the bytes of it that stay open, be they none. The
rest they can no longer observe. -/
def openPart (ord : PendingWrite → Bool) : List PendingWrite → List PendingWrite
  | [] => []
  | w :: ws => { w with cells := w.cells.filter fun c => keeps ord w ws c.1 } :: openPart ord ws

/-- Memory after writes, in order. -/
def commitWrites (m : List Host.Cell) (ws : List PendingWrite) : List Host.Cell :=
  ws.foldl (fun m w => memWriteCells m w.cells) m

/-- The writes FEAT_ETS2 and FEAT_ETS3 order before the descriptor reads of an access that takes a fault:
explicit writes of this PE not made by an Advanced SIMD, floating-point, SVE or SME instruction, and any
write that an explicit read of this PE not made by one returned (R100, R101). -/
def PendingWrite.etsOrdered (w : PendingWrite) : Bool := (w.own && !w.simd) || w.readBack

/-- Mark the writes that supply one of the `n` bytes from key `k` on to an explicit read: those no later
write replaces there. -/
def markRead (k n : Nat) : List PendingWrite → List PendingWrite
  | [] => []
  | w :: ws =>
    (if w.cells.any fun c => (k ≤ c.1 && c.1 < k + n) && !(ws.any fun v => v.covers c.1) then
        { w with readBack := true }
      else w) :: markRead k n ws

/-- The coherent bytes an explicit read of this PE sees: every pending write in order. -/
def coherentBytes (s : State) (k n : Nat) : List Byte :=
  observedBytes s.mem s.pendingWrites (2 ^ s.pendingWrites.length - 1) k n

/-! ### Software's accesses (R93, R121) -/

/-- The access touched one of the `n` bytes from key `k` on. -/
def SoftAccess.overlaps (a : SoftAccess) (k n : Nat) : Bool := a.key < k + n && k < a.key + a.bytes

/-- The attributes of an access are those of table lookups (R93): the Cacheability and Shareability of
Normal memory are equal, Device memory is no Normal memory, and an opaque label is decided by the free
function (log 46). -/
def Attrs.matchTable (a : Attrs) (t : TableAttrs) : Bool :=
  match a with
  | .normal i o sh _ _ => i == t.inner && o == t.outer && sh == t.share
  | .deviceNGnRnE _ => false
  | .label b => Config.labelMatches b t

/-- An access of software to one of the `n` bytes from key `k` on used other attributes (R93, R579). -/
def attrsMismatch (as : List SoftAccess) (k n : Nat) (t : TableAttrs) : Bool :=
  as.any fun a => a.overlaps k n && !a.attrs.matchTable t

/-- The lookup read one of the `n` bytes from key `k` on. -/
def TableRead.overlaps (x : TableRead) (k n : Nat) : Bool := x.key < k + n && k < x.key + x.bytes

/-- A walk read one of the `n` bytes from key `k` on with other attributes than these of an access of software
(R93, R579). -/
def tableMismatch (xs : List TableRead) (k n : Nat) (a : Attrs) : Bool :=
  xs.any fun x => x.overlaps k n && !a.matchTable x.attrs

/-- Software wrote to one of these bytes (R121). -/
def softWrote (as : List SoftAccess) (k n : Nat) : Bool := as.any fun a => a.written && a.overlaps k n

/-! ### Choices -/

/-- One of the permitted outcomes; with one outcome there is nothing to choose. -/
def pick {α : Type} (draws : Nat) (pt : ChoicePoint) (x : α) (others : List α) : α :=
  match others with
  | [] => x
  | _ :: _ => (x :: others).getD (Config.choose draws pt % (others.length + 1)) x

/-- The list with an element put before its element number `n`, or at its end. -/
def putAt {α : Type} (x : α) : Nat → List α → List α
  | 0, ys => x :: ys
  | _ + 1, [] => [x]
  | n + 1, y :: ys => y :: putAt x n ys

/-- The list in one of its orders, which the number selects. -/
def reorder {α : Type} : List α → Nat → List α
  | [], _ => []
  | x :: xs, n => putAt x (n % (xs.length + 1)) (reorder xs (n / (xs.length + 1)))

/-! ### System registers (R98, R99, R573) -/

/-- The effect of a direct write on the registers. -/
def SysWrite.apply (w : SysWrite) (r : SysRegs) : SysRegs :=
  match w with
  | .ttbr0El1 v => { r with ttbr0El1 := v }
  | .ttbr1El1 v => { r with ttbr1El1 := v }
  | .ttbr0El2 v => { r with ttbr0El2 := v }
  | .ttbr1El2 v => { r with ttbr1El2 := v }
  | .ttbr0El3 v => { r with ttbr0El3 := v }
  | .vttbrEl2 v => { r with vttbrEl2 := v }
  | .vsttbrEl2 v => { r with vsttbrEl2 := v }
  | .tcrEl1 v => { r with tcrEl1 := v }
  | .tcrEl2 v => { r with tcrEl2 := v }
  | .tcrEl3 v t => { r with tcrEl3 := v, tcrEl3The := t }
  | .tcr2El1 v => { r with tcr2El1 := v }
  | .tcr2El2 v => { r with tcr2El2 := v }
  | .hcrxEl2 p => { r with hcrxPttwi := p }
  | .vtcrEl2 v => { r with vtcrEl2 := v }
  | .vstcrEl2 v => { r with vstcrEl2 := v }
  | .sctlrEl1 v => { r with sctlrEl1 := v }
  | .sctlrEl2 v => { r with sctlrEl2 := v }
  | .sctlrEl3 v => { r with sctlrEl3 := v }
  | .hcrEl2 v => { r with hcrEl2 := v }
  | .scrEl3 v => { r with scrEl3 := v }
  | .rcwmaskEl1 v => { r with rcwmaskEl1 := v }
  | .rcwsmaskEl1 v => { r with rcwsmaskEl1 := v }
  | .s2porEl1 v => { r with s2porEl1 := v }
  | .mecid v => { r with mecid := v }
  | .unnamed v => { r with unnamed := v }

/-- A write of TTBR0_ELx or TTBR1_ELx, which "occur in program order relative to one another" (R98). -/
def SysWrite.isTtbr : SysWrite → Bool
  | .ttbr0El1 _ | .ttbr1El1 _ | .ttbr0El2 _ | .ttbr1El2 _ | .ttbr0El3 _ => true
  | _ => false

/-- The registers after the first `j` TTBR writes of the list and those other writes whose bit is set in
`mask`, in program order: "one point in that order of direct writes" for TTBR0_ELx and TTBR1_ELx (R98),
any combination of old and new values for the others (R573). -/
def observeWrites : List SysWrite → Nat → Nat → SysRegs → SysRegs
  | [], _, _, r => r
  | w :: ws, j, mask, r =>
    if w.isTtbr then
      match j with
      | 0 => observeWrites ws 0 (mask / 2) r
      | j' + 1 => observeWrites ws j' (mask / 2) (w.apply r)
    else observeWrites ws j (mask / 2) (if mask.testBit 0 then w.apply r else r)

/-- The registers one translation reads (R98, R99, R573): with no write pending, the registers. -/
def regsView (s : State) (p : Purpose) : SysRegs :=
  match s.pendingRegs with
  | [] => s.regs
  | w :: ws =>
    observeWrites (w :: ws)
      (Config.choose s.draws (.ttbrPrefix p) % ((w :: ws).countP SysWrite.isTtbr + 1))
      (Config.choose s.draws (.regMask p)) s.regs

/-- The registers after every pending write: what a Context synchronization event leaves (R99). -/
def syncedRegs (s : State) : SysRegs := s.pendingRegs.foldl (fun r w => w.apply r) s.regs

/-! ### Updates of the state -/

/-- The next instruction "is the one at the following word" (R450; R61, general knowledge: 4 bytes). After the last
word of the address space it is the first: the source says nothing of a program counter past the end (DESIGN CHOICE,
log 7). -/
def State.advancePc (s : State) : State := { s with pc := s.pc + 4 }

/-- PAR_EL1 is written; until the next synchronization a direct read may return the old value (R577). -/
def State.writePar (s : State) (p : Par) : State := { s with par := p, parStale := s.par :: s.parStale }

/-- The free choices of this instruction are spent. -/
def State.bumpDraws (s : State) : State := { s with draws := s.draws + 1 }

/-- The last event's answer. -/
def State.answer (s : State) (o : Output) : State := { s with output := o }

/-- An explicit write to `n` bytes becomes pending (R95). -/
def State.addWrite (s : State) (w : PendingWrite) : State :=
  { s with pendingWrites := s.pendingWrites ++ [w] }

/-- An explicit read of `n` bytes from key `k` on, not by a SIMD instruction, orders what it returned before
later walks that fault (R100). -/
def State.noteRead (s : State) (k n : Nat) (simd : Bool) : State :=
  { s with pendingWrites := if simd then s.pendingWrites else markRead k n s.pendingWrites }

/-- Software's access is recorded. -/
def State.noteSoft (s : State) (k n : Nat) (attrs : Attrs) (written : Bool) : State :=
  { s with softAccesses := { key := k, bytes := n, attrs := attrs, written := written } :: s.softAccesses }

/-- The descriptors that a walk read are recorded (R93). -/
def State.noteReads (s : State) (xs : List TableRead) : State := { s with tableReads := xs ++ s.tableReads }

/-- The region an instruction address lies in: `[a, a + MinGranule)` (R432). -/
def regionOf (l : Launch) (va : Nat) : Nat := va / 2 ^ l.minGranule.bits

/-- Simple sequential execution required the instruction at `pc` (R433). Its region counts whatever the
Security state, and whether the address was translated: the source speaks of instruction addresses alone
(DESIGN CHOICE, log 60). -/
def State.noteExecuted (s : State) : State :=
  { s with
    executed :=
      if s.executed.contains (regionOf s.launch s.pc.toNat) then s.executed
      else regionOf s.launch s.pc.toNat :: s.executed }

/-! ### How a step ends in an exception

The source describes no exception entry and no return from one ("The model's translation therefore
*returns* the fault record and an embedding PE model delivers it", R525; "this spec ends the step with the
outcome `Undefined`", R520). The two operations below are the whole of it. -/

/-- An MMU fault generates an exception: the step ends with the fault record (R479, R525, D11). -/
def takeMmuException (f : MmuFault) : Host.Outcome State Fault Refusal := .fault (.mmuException f)

/-- The instruction is UNDEFINED: no state changes (R520). -/
def undefinedInstruction : Host.Outcome State Fault Refusal := .fault .undefined

end Sys2Proof.Machine
end

