-- ==== Sys2Proof/Machine/Operands.lean ====
section
/-! DEFINITION. The one operand form: the 64-bit value of `<Xt>` (spec/30_encoding.md R130, R135; 10_state.md R60). -/

namespace Sys2Proof.Machine

/-- Read a general register by number; there are 31 (G3). A number above 30 stands in no well-formed
instruction and reads as zero. -/
def readX (s : State) (n : Nat) : Word := if h : n < 31 then s.xs[n] else 0

/-- "`IA <- x[t]`", all 64 bits (R135); register number 31 "reads as the zero register" (R134). -/
def readXt (s : State) : XReg → Word
  | .x n => readX s n
  | .zr => 0

end Sys2Proof.Machine
end

