-- ==== Sys2Proof/Machine/Flags.lean ====
section
/-! DEFINITION. Process-state flags: PSTATE.PAN is the only one the source names, and no instruction writes a flag
(spec/10_state.md R52; 47_at_instructions.md R450, R468). -/

namespace Sys2Proof.Machine

/-- The PAN value a permission check considers: PSTATE.PAN where the access considers it, else none
(R131, R468). "With PSTATE.PAN = 0 the two agree" (R455). -/
def panConsidered (s : State) (a : Access) : Bool := a.usePan && s.pan

end Sys2Proof.Machine
end

