-- ==== Sys2Proof/Machine/Granule16K.lean ====
section
/-! DEFINITION. VMSAv8-64 with the 16KB granule (spec/43_granule_16k.md). -/

namespace Sys2Proof.Machine

/-- The initial lookup level of stage 1 (Table D8-28, R312). -/
def s1Start16K (tnsz : Nat) (ds ttst : Bool) : Option Int :=
  if 12 ≤ tnsz ∧ tnsz ≤ 15 ∧ ds then some 0
  else if tnsz = 16 then some 0
  else if 17 ≤ tnsz ∧ tnsz ≤ 27 then some 1
  else if 28 ≤ tnsz ∧ tnsz ≤ 38 then some 2
  else if tnsz = 39 then some 3
  else if 40 ≤ tnsz ∧ tnsz ≤ 48 ∧ ttst then some 3
  else none

/-- The initial lookup level of stage 2 (Table D8-29, R314); SL2 takes no part. -/
def s2Start16K (sl0 : Nat) : Int :=
  if sl0 = 0 then 3 else if sl0 = 1 then 2 else if sl0 = 2 then 1 else 0

/-- T0SZ is consistent with the initial level of stage 2 (Tables D8-30 to D8-33, R316 to R320). -/
def s2Consistent16K (level : Int) (t0sz : Nat) (ds ttst : Bool) : Bool :=
  if level = 0 then ds && 12 ≤ t0sz && t0sz ≤ 16
  else if level = 1 then (16 ≤ t0sz && t0sz ≤ 27) || (ds && 13 ≤ t0sz && t0sz ≤ 15)
  else if level = 2 then 24 ≤ t0sz && t0sz ≤ 38
  else if level = 3 then (35 ≤ t0sz && t0sz ≤ 39) || (ttst && 40 ≤ t0sz && t0sz ≤ 48)
  else false

/-- The number of concatenated tables (R320). -/
def s2Concat16K (level : Int) (t0sz : Nat) : Nat :=
  if level = 1 then 2 ^ (17 - t0sz)
  else if level = 2 then 2 ^ (28 - t0sz)
  else if level = 3 then 2 ^ (39 - t0sz)
  else 1

/-- `lo(level)` (R304, R326). -/
def lo16K (level : Int) : Nat :=
  if level = 0 then 47 else if level = 1 then 36 else if level = 2 then 25 else 14

/-- `c(level)` (R326). -/
def c16K (level : Int) : Nat :=
  if level = 0 then 20 else if level = 1 then 31 else if level = 2 then 42 else 53

/-- The levels whose entries may be Table descriptors (Table D8-26, R304). -/
def tableLevel16K (level : Int) : Bool := level = 0 || level = 1 || level = 2

/-- The levels whose entries may be Block descriptors (Tables D8-26, D8-27). -/
def blockLevel16K (level : Int) (ds : Bool) : Bool := (level = 1 && ds) || level = 2

end Sys2Proof.Machine
end

