-- ==== Sys2Proof/Machine/Granule4K.lean ====
section
/-! DEFINITION. VMSAv8-64 with the 4KB granule: levels, start levels, consistency, descriptor addresses
(spec/42_granule_4k.md). Levels are integers; a function gives `none` where the source has no row. -/

namespace Sys2Proof.Machine

/-- The initial lookup level of stage 1 (Table D8-18, R272). -/
def s1Start4K (tnsz : Nat) (ds ttst : Bool) : Option Int :=
  if 12 ≤ tnsz ∧ tnsz ≤ 15 ∧ ds then some (-1)
  else if 16 ≤ tnsz ∧ tnsz ≤ 24 then some 0
  else if 25 ≤ tnsz ∧ tnsz ≤ 33 then some 1
  else if 34 ≤ tnsz ∧ tnsz ≤ 39 then some 2
  else if 40 ≤ tnsz ∧ tnsz ≤ 42 ∧ ttst then some 2
  else if 43 ≤ tnsz ∧ tnsz ≤ 48 ∧ ttst then some 3
  else none

/-- The initial lookup level of stage 2 (Table D8-19, R273, R274); `none` is Reserved. SL2 is RES0 when
the Effective value of DS is 0. -/
def s2Start4K (sl2 : Bool) (sl0 : Nat) (ds : Bool) : Option Int :=
  if sl2 && ds then (if sl0 = 0 then some (-1) else none)
  else if sl0 = 0 then some 2
  else if sl0 = 1 then some 1
  else if sl0 = 2 then some 0
  else some 3

/-- T0SZ is consistent with the initial level of stage 2 (Tables D8-20 to D8-24, R276 to R281). -/
def s2Consistent4K (level : Int) (t0sz : Nat) (ds ttst : Bool) : Bool :=
  if level = -1 then ds && 12 ≤ t0sz && t0sz ≤ 15
  else if level = 0 then (16 ≤ t0sz && t0sz ≤ 24) || (ds && 12 ≤ t0sz && t0sz ≤ 15)
  else if level = 1 then 21 ≤ t0sz && t0sz ≤ 33
  else if level = 2 then (30 ≤ t0sz && t0sz ≤ 39) || (ttst && 40 ≤ t0sz && t0sz ≤ 42)
  else if level = 3 then ttst && 39 ≤ t0sz && t0sz ≤ 48
  else false

/-- The number of concatenated tables at the initial lookup of stage 2 (R281). -/
def s2Concat4K (level : Int) (t0sz : Nat) : Nat :=
  if level = 0 then 2 ^ (16 - t0sz)
  else if level = 1 then 2 ^ (25 - t0sz)
  else if level = 2 then 2 ^ (34 - t0sz)
  else if level = 3 then 2 ^ (43 - t0sz)
  else 1

/-- `lo(level)`: the lowest IA bit that indexes the level, which is also the number of IA bits a final
descriptor there maps directly (R264 to R266, R286). -/
def lo4K (level : Int) : Nat :=
  if level = -1 then 48 else if level = 0 then 39 else if level = 1 then 30 else if level = 2 then 21
  else 12

/-- `c(level)` of the descriptor address (R286). -/
def c4K (level : Int) : Nat :=
  if level = -1 then 19 else if level = 0 then 28 else if level = 1 then 37 else if level = 2 then 46
  else 55

/-- The levels whose entries may be Table descriptors (Table D8-16, R264). -/
def tableLevel4K (level : Int) (ds : Bool) : Bool :=
  (level = -1 && ds) || level = 0 || level = 1 || level = 2

/-- The levels whose entries may be Block descriptors (Tables D8-16, D8-17). -/
def blockLevel4K (level : Int) (ds : Bool) : Bool :=
  (level = 0 && ds) || level = 1 || level = 2

end Sys2Proof.Machine
end

