-- ==== Sys2Proof/Machine/Granule64K.lean ====
section
/-! DEFINITION. VMSAv8-64 with the 64KB granule (spec/44_granule_64k.md): the 52-bit options are FEAT_LVA and FEAT_LPA,
"the DS fields take no part" (R343). -/

namespace Sys2Proof.Machine

/-- The initial lookup level of stage 1 (Table D8-37, R352). -/
def s1Start64K (tnsz : Nat) (lva ttst : Bool) : Option Int :=
  if 12 ≤ tnsz ∧ tnsz ≤ 15 ∧ lva then some 1
  else if 16 ≤ tnsz ∧ tnsz ≤ 21 then some 1
  else if 22 ≤ tnsz ∧ tnsz ≤ 34 then some 2
  else if 35 ≤ tnsz ∧ tnsz ≤ 39 then some 3
  else if 40 ≤ tnsz ∧ tnsz ≤ 47 ∧ ttst then some 3
  else none

/-- The initial lookup level of stage 2 (Table D8-38, R354); `none` is Reserved. -/
def s2Start64K (sl0 : Nat) : Option Int :=
  if sl0 = 0 then some 3 else if sl0 = 1 then some 2 else if sl0 = 2 then some 1 else none

/-- T0SZ is consistent with the initial level of stage 2 (Tables D8-39 to D8-41, R356 to R359). -/
def s2Consistent64K (level : Int) (t0sz : Nat) (lpa ttst : Bool) : Bool :=
  if level = 1 then (16 ≤ t0sz && t0sz ≤ 21) || (lpa && 12 ≤ t0sz && t0sz ≤ 15)
  else if level = 2 then 18 ≤ t0sz && t0sz ≤ 34
  else if level = 3 then (31 ≤ t0sz && t0sz ≤ 39) || (ttst && 40 ≤ t0sz && t0sz ≤ 47)
  else false

/-- The number of concatenated tables (R359). -/
def s2Concat64K (level : Int) (t0sz : Nat) : Nat :=
  if level = 2 then 2 ^ (22 - t0sz)
  else if level = 3 then 2 ^ (35 - t0sz)
  else 1

/-- `lo(level)` (R344, R366). -/
def lo64K (level : Int) : Nat :=
  if level = 1 then 42 else if level = 2 then 29 else 16

/-- `c(level)` (R366). -/
def c64K (level : Int) : Nat :=
  if level = 1 then 25 else if level = 2 then 38 else 51

/-- The levels whose entries may be Table descriptors (Table D8-35, R344). -/
def tableLevel64K (level : Int) : Bool := level = 1 || level = 2

/-- The levels whose entries may be Block descriptors: level 1 "exactly when FEAT_LPA is implemented"
(R344, Table D8-36). -/
def blockLevel64K (level : Int) (lpa : Bool) : Bool := (level = 1 && lpa) || level = 2

end Sys2Proof.Machine
end

