-- ==== Sys2Proof/Machine/Vmsav8.lean ====
section
/-! DEFINITION. The VMSAv8-64 functions of all three granules under one name each: base address, descriptor address,
start level, types by level (spec/10_state.md R27; 40_walk_generic.md R171, R183; 42_granule_4k.md R285 to R287,
43_granule_16k.md R325 to R327, 44_granule_64k.md R365 to R367). -/

namespace Sys2Proof.Machine

/-- `lo(level)` of the granule (R286, R326, R366). -/
def v8Lo (g : Granule) (level : Int) : Nat :=
  match g with
  | .g4K => lo4K level
  | .g16K => lo16K level
  | .g64K => lo64K level

/-- `c(level)` of the granule (R286, R326, R366). -/
def v8C (g : Granule) (level : Int) : Nat :=
  match g with
  | .g4K => c4K level
  | .g16K => c16K level
  | .g64K => c64K level

/-- `x`: log2 of the table's size in bytes (R286, R326, R366). -/
def v8X (g : Granule) (level : Int) (initial : Bool) (sz : Nat) : Nat :=
  if initial then v8C g level - sz else g.bits

/-- `BaseAddr[PAsize-1 : x] : IA[x + lo - 4 : lo] : 0b000` (R286, R326, R366). -/
def v8DescAddr (g : Granule) (level : Int) (initial : Bool) (sz paSize base ia : Nat) : Nat :=
  let x := v8X g level initial sz
  alignDown (base % 2 ^ paSize) x + field ia (v8Lo g level) (x - 3) * 8

/-- The initial lookup level of stage 1 (R272, R312, R352). -/
def v8S1Start (c : WalkCfg) : Option Int :=
  match c.granule with
  | .g4K => s1Start4K c.sz c.ds c.ttst
  | .g16K => s1Start16K c.sz c.ds c.ttst
  | .g64K => s1Start64K c.sz c.lva c.ttst

/-- The initial lookup level of stage 2, `none` where R283, R323 or R363 gives the level 0 Translation
fault: a reserved SL0, SL2, or a T0SZ not consistent with it. -/
def v8S2Start (c : WalkCfg) : Option Int :=
  match c.granule with
  | .g4K =>
    match s2Start4K c.sl2 c.sl0 c.ds with
    | some l => if s2Consistent4K l c.sz c.ds c.ttst then some l else none
    | none => none
  | .g16K =>
    if s2Consistent16K (s2Start16K c.sl0) c.sz c.ds c.ttst then some (s2Start16K c.sl0) else none
  | .g64K =>
    match s2Start64K c.sl0 with
    | some l => if s2Consistent64K l c.sz c.lpa c.ttst then some l else none
    | none => none

/-- The number of concatenated tables at the initial lookup of stage 2 (R281, R320, R359). -/
def v8S2Concat (g : Granule) (level : Int) (t0sz : Nat) : Nat :=
  match g with
  | .g4K => s2Concat4K level t0sz
  | .g16K => s2Concat16K level t0sz
  | .g64K => s2Concat64K level t0sz

/-- A Table descriptor is allowed at the level (R264, R304, R344). -/
def v8TableAllowed (g : Granule) (level : Int) (ds : Bool) : Bool :=
  match g with
  | .g4K => tableLevel4K level ds
  | .g16K => tableLevel16K level
  | .g64K => tableLevel64K level

/-- A Block descriptor is allowed at the level (R264, R304, R344). -/
def v8BlockAllowed (g : Granule) (level : Int) (ds lpa : Bool) : Bool :=
  match g with
  | .g4K => blockLevel4K level ds
  | .g16K => blockLevel16K level ds
  | .g64K => blockLevel64K level lpa

/-- The 52-bit option of the granule is on: DS for 4KB and 16KB (R262, R302), FEAT_LPA for 64KB (R343). It
gives the maximum OA size (R10), whatever OA size is configured. -/
def v8Opt52 (g : Granule) (ds lpa : Bool) : Bool :=
  match g with
  | .g4K => ds
  | .g16K => ds
  | .g64K => lpa

/-- The maximum OA size (R10, R183). -/
def v8MaxOa (opt52 : Bool) : Nat := if opt52 then 52 else 48

/-- "The 52-bit OA size is in use" (R27, R88, R143), which the source does not define. DESIGN CHOICE (log 62):
with the 4KB and 16KB granules where DS is 1, with the 64KB granule where FEAT_LPA is implemented and the
OA size configured for the stage is above 48 bits. -/
def WalkCfg.oa52 (c : WalkCfg) : Bool :=
  c.opt52 &&
    match c.granule with
    | .g4K => true
    | .g16K => true
    | .g64K => decide (48 < c.oaSize)

/-- `BaseAddr` from the register bits (Table D8-10, R27): bits [47:6] or [47:0], and {I}PA[51:48] from bits
[5:2] when the 52-bit OA size is in use, which raises the alignment to 64 bytes (R88). Register bits from 48
up take no part, a point R183 leaves open (DESIGN CHOICE, log 63). -/
def v8BaseAddr (baddr : PAddr) (oa52 : Bool) : Nat :=
  let r := baddr.toNat
  if oa52 then field r 6 42 * 2 ^ 6 + field r 2 4 * 2 ^ 48 else r % 2 ^ 48

/-- The initial lookup level of a walk, `none` where the stage has none. -/
def v8Start (c : WalkCfg) : Option Int :=
  match c.stage with
  | .s1 => v8S1Start c
  | .s2 => v8S2Start c

/-- `BaseAddr` of the initial lookup: "the aligned value" (R163), aligned down to the table it locates. Register bits
below that alignment are no part of it (R27), so that a misaligned value gives no fault (R174). -/
def v8InitialBase (c : WalkCfg) (level : Int) : Nat :=
  alignDown (v8BaseAddr c.baddr c.oa52) (v8X c.granule level true c.sz)

/-- `BaseAddr` has bits at or above the OA size, which is smaller than the maximum (R183). -/
def v8BaseTooLarge (base oaSize : Nat) (opt52 : Bool) : Bool :=
  oaSize < v8MaxOa opt52 && base % 2 ^ v8MaxOa opt52 / 2 ^ oaSize != 0

/-- The OA of a final descriptor: `d.oab[hi:n] : IA[n-1:0]`, hi 51 or 47 (R263, R265, R266 and siblings). Bits of
`oab` below n are dropped: that a Block with such bits nonzero is no error is the model's choice, since the source
does not say (R266; DESIGN CHOICE, log 69). -/
def v8FinalOa (g : Granule) (level : Int) (opt52 : Bool) (oab : PAddr) (ia : Nat) : Nat :=
  let n := v8Lo g level
  alignDown (oab.toNat % 2 ^ v8MaxOa opt52) n + ia % 2 ^ n

end Sys2Proof.Machine
end

