-- ==== Sys2Proof/Machine/Regimes.lean ====
section
/-! DEFINITION. Security states, Effective values, regimes, and which registers serve which regime
(spec/10_state.md R55; 20_memory.md R86, R104 to R118; 40_walk_generic.md R175 to R197; 46_disabled_stages.md R420,
R428; 60_exceptions.md R530 to R533). -/

namespace Sys2Proof.Machine

/-! ### Exception levels and Security states -/

/-- The Security state of EL3: "Root with FEAT_RME, else Secure" (R471). -/
def el3State (l : Launch) : SecState := if l.featRme then .root else .secure

/-- A Security state below EL3 that the PE has. Realm exists only with FEAT_RME, and Root is the state of EL3 (R531): a
state the PE has not acts as Non-secure (DESIGN CHOICE, log 56). -/
def SecState.below (l : Launch) : SecState → SecState
  | .secure => .secure
  | .nonSecure => .nonSecure
  | .realm => if l.featRme then .realm else .nonSecure
  | .root => .nonSecure

/-- The Security state the Effective value of SCR_EL3.{NSE, NS} selects below EL3; {1, 0} selects none, with FEAT_RME
or without, and {1, 1} Realm, which exists only with FEAT_RME (R37, R471, R531). -/
def scrState (l : Launch) (r : SysRegs) : Option SecState :=
  match r.scrEl3.nse, r.scrEl3.ns with
  | false, false => some .secure
  | false, true => some .nonSecure
  | true, false => none
  | true, true => some (SecState.below l .realm)

/-- The Security state of a PE without EL3, a launch parameter (R471). -/
def Launch.stateWithoutEl3 (l : Launch) : SecState := l.ssNoEl3.below l

/-- The Security state of Exception levels below EL3: "Below EL3 the state is selected by the Effective
value of SCR_EL3.{NSE, NS}" (R531); without EL3 it is a launch parameter (R471). -/
def lowerState (l : Launch) (r : SysRegs) : Option SecState :=
  if l.haveEl3 then scrState l r else some l.stateWithoutEl3

/-- The Security state of a context at an Exception level (R24, R471, R531). -/
def stateAt (l : Launch) (r : SysRegs) (el : EL) : Option SecState :=
  match el with
  | .el3 => some (el3State l)
  | _ => lowerState l r

/-- "EL2 is enabled" in a Security state: a parameter, false without EL2 (D18); "Realm EL2 is always
enabled" (R111). -/
def el2Enabled (l : Launch) (r : SysRegs) (ss : SecState) : Bool :=
  l.haveEl2 &&
    match ss with
    | .secure => r.unnamed.el2EnabledSecure
    | .nonSecure => r.unnamed.el2EnabledNonSecure
    | .realm => true
    | .root => false

/-- One value of a per-state parameter. -/
def PerState.get (p : PerState) (ss : SecState) : Bool :=
  match ss with
  | .secure => p.secure
  | .nonSecure => p.nonSecure
  | .realm => p.realm
  | .root => false

/-- `EL2Regime(ss)`: the regime that serves EL2 (R532). -/
def el2Regime (r : SysRegs) (ss : SecState) : Regime :=
  if r.unnamed.el2HasEl20.get ss then .el20 else .el2

/-- The translation regime of a context (R532). -/
def regimeOf (r : SysRegs) (ss : SecState) (el : EL) : Regime :=
  match el with
  | .el0 => if r.unnamed.el2HasEl20.get ss && r.unnamed.el0InEl20.get ss then .el20 else .el10
  | .el1 => .el10
  | .el2 => el2Regime r ss
  | .el3 => .el3

/-! ### Effective values -/

/-- "EffectiveValue(HCR_EL2.DC) = HCR_EL2.DC and EL2Enabled(ss)" (R428, D33). -/
def dcEffective (l : Launch) (r : SysRegs) (ss : SecState) : Bool := r.hcrEl2.dc && el2Enabled l r ss

/-- The SCTLR_ELx that serves a regime (R55). -/
def sctlrOf (r : SysRegs) (g : Regime) : Sctlr :=
  match g with
  | .el10 => r.sctlrEl1
  | .el20 => r.sctlrEl2
  | .el2 => r.sctlrEl2
  | .el3 => r.sctlrEl3

/-- The Effective value of SCTLR_ELx.M: 0 in EL1&0 when HCR_EL2.DC is 1 (R420, R428). -/
def mEffective (l : Launch) (r : SysRegs) (g : Regime) (ss : SecState) : Bool :=
  match g with
  | .el10 => !dcEffective l r ss && r.sctlrEl1.m
  | _ => (sctlrOf r g).m

/-- `Stage1Disabled(regime)` (R420). -/
def stage1Disabled (l : Launch) (r : SysRegs) (g : Regime) (ss : SecState) : Bool := !mEffective l r g ss

/-- `HasStage2(regime)`: EL1&0 with EL2 enabled (R420). -/
def hasStage2 (l : Launch) (r : SysRegs) (g : Regime) (ss : SecState) : Bool :=
  g == .el10 && el2Enabled l r ss

/-- The Effective value of HCR_EL2.VM: 1 when HCR_EL2.DC is 1 and EL2 is enabled (R428). -/
def vmEffective (l : Launch) (r : SysRegs) (ss : SecState) : Bool := dcEffective l r ss || r.hcrEl2.vm

/-- Stage 2 is enabled for the regime (R420). -/
def stage2Enabled (l : Launch) (r : SysRegs) (g : Regime) (ss : SecState) : Bool :=
  hasStage2 l r g ss && vmEffective l r ss

/-- Which regimes support two VA ranges (R186). -/
def twoRanges (g : Regime) : Bool :=
  match g with
  | .el10 => true
  | .el20 => true
  | .el2 => false
  | .el3 => false

/-- `System(stage 1)` of a regime (R2). -/
def system1 (r : SysRegs) (g : Regime) : System :=
  match g with
  | .el10 => r.unnamed.sysEl10
  | .el20 => r.unnamed.sysEl20
  | .el2 => r.unnamed.sysEl2
  | .el3 => r.unnamed.sysEl3

/-- "IPA and PA values have at most 52 significant bits under VMSAv8-64 and at most 56 under VMSAv9-128"
(R20). -/
def addressBits (sys : System) : Nat :=
  match sys with
  | .vmsav8 => 52
  | .vmsav9 => 56

/-- `OAsize(stage)`, "a natural number of bits not above `PAsize`" (D9), nor above what the translation
system has (R20): a larger value acts as the smaller of the two (log 34). -/
def boundedOaSize (l : Launch) (sys : System) (bits : BitVec 6) : Nat :=
  min bits.toNat (min (physBits l) (addressBits sys))

/-- `OAsize(stage 1)` of a regime (D9). -/
def oaSize1 (l : Launch) (r : SysRegs) (g : Regime) : Nat :=
  boundedOaSize l (system1 r g)
    (match g with
      | .el10 => r.unnamed.oaEl10
      | .el20 => r.unnamed.oaEl20
      | .el2 => r.unnamed.oaEl2
      | .el3 => r.unnamed.oaEl3)

/-- `TopByteIgnore` of a regime and range (D6). -/
def topByteIgnore (r : SysRegs) (g : Regime) (upper : Bool) : Bool :=
  match g with
  | .el10 => if upper then r.unnamed.tbiEl10Upper else r.unnamed.tbiEl10Lower
  | .el20 => if upper then r.unnamed.tbiEl20Upper else r.unnamed.tbiEl20Lower
  | .el2 => r.unnamed.tbiEl2
  | .el3 => r.unnamed.tbiEl3

/-- TCR_ELx of a regime (R55). -/
def tcrOf (r : SysRegs) (g : Regime) : Tcr :=
  match g with
  | .el10 => r.tcrEl1
  | .el20 => r.tcrEl2
  | .el2 => r.tcrEl2
  | .el3 => r.tcrEl3

/-- TTBRn_ELx of a regime and range (R55, R187). -/
def ttbrOf (r : SysRegs) (g : Regime) (upper : Bool) : Ttbr :=
  match g with
  | .el10 => if upper then r.ttbr1El1 else r.ttbr0El1
  | .el20 => if upper then r.ttbr1El2 else r.ttbr0El2
  | .el2 => r.ttbr0El2
  | .el3 => r.ttbr0El3

/-- TnSZ of the selected range (R191). -/
def Tcr.tnsz (t : Tcr) (upper : Bool) : Nat := (if upper then t.t1sz else t.t0sz).toNat

/-- TGn (R205). -/
def Tcr.tg (t : Tcr) (upper : Bool) : Granule := if upper then t.tg1 else t.tg0

/-- EPDn (R193). -/
def Tcr.epd (t : Tcr) (upper : Bool) : Bool := if upper then t.epd1 else t.epd0

/-- E0PDn (R195). -/
def Tcr.e0pd (t : Tcr) (upper : Bool) : Bool := if upper then t.e0pd1 else t.e0pd0

/-- HPDn (R166). -/
def Tcr.hpd (t : Tcr) (upper : Bool) : Bool := if upper then t.hpd1 else t.hpd0

/-- The attributes of table lookups in the selected range (R92, G5). -/
def Tcr.tableAttrs (t : Tcr) (upper : Bool) : TableAttrs := if upper then t.tableAttrs1 else t.tableAttrs0

/-- PnCH of a regime (Table D8-11, R221). -/
def pnchOf (r : SysRegs) (g : Regime) : Bool :=
  match g with
  | .el10 => r.tcr2El1.pnch
  | .el20 => r.tcr2El2.pnch
  | .el2 => r.tcr2El2.pnch
  | .el3 => r.tcrEl3The.pnch

/-- "Protection is enabled" (R221), with FEAT_THE (R220). -/
def protectionEnabled (l : Launch) (r : SysRegs) (g : Regime) : Bool :=
  l.featThe && (system1 r g == .vmsav9 || pnchOf r g)

/-- No PTTWI bit that the regime's PTTWI is made of is read-only 0, and FEAT_THE is implemented (R114, R117,
R220). Only then may a walk of the regime ignore a Reduced Coherence write: with PTTWI read-only 0 "rule R115 never
applies" (R117), and without FEAT_THE PTTWI is 0 as well (DEDUCED, log 27). -/
def pttwiWritable (l : Launch) (r : SysRegs) (g : Regime) (ss : SecState) : Bool :=
  l.featThe &&
    match g with
    | .el10 => !l.ro0Tcr2El1 && (!el2Enabled l r ss || !l.ro0Hcrx)
    | .el20 => !l.ro0Tcr2El2
    | .el2 => !l.ro0Tcr2El2
    | .el3 => !l.ro0TcrEl3

/-- PTTWI of a regime (Table D8-12, R114), each bit 0 where the implementation makes it read-only 0 (R117),
and 0 without FEAT_THE (R220). -/
def pttwiOf (l : Launch) (r : SysRegs) (g : Regime) (ss : SecState) : Bool :=
  l.featThe &&
    match g with
    | .el10 =>
      (r.tcr2El1.pttwi && !l.ro0Tcr2El1) && (!el2Enabled l r ss || (r.hcrxPttwi && !l.ro0Hcrx))
    | .el20 => r.tcr2El2.pttwi && !l.ro0Tcr2El2
    | .el2 => r.tcr2El2.pttwi && !l.ro0Tcr2El2
    | .el3 => r.tcrEl3The.pttwi && !l.ro0TcrEl3

/-! ### Address ranges (R187 to R191) -/

/-- VA bit 55 selects the range where there are two (R191). -/
def upperRange (g : Regime) (va : Word) : Bool := twoRanges g && va.getLsbD 55

/-- The VA the checks compare: all 64 bits, or with bits [63:56] exempt under `TopByteIgnore` (D6): made
equal to bit 55 in a regime with two ranges, zero in one with one. -/
def checkedVa (r : SysRegs) (g : Regime) (va : Word) : Nat :=
  let upper := upperRange g va
  if topByteIgnore r g upper then
    (if upper then va.toNat % 2 ^ 56 + 255 * 2 ^ 56 else va.toNat % 2 ^ 56)
  else va.toNat

/-- `InLower(va)` (R189). -/
def inLower (va t0sz : Nat) : Bool := va < 2 ^ (64 - t0sz)

/-- `InUpper(va)` (R189). -/
def inUpper (va t1sz : Nat) : Bool := decide (2 ^ 64 - 2 ^ (64 - t1sz) ≤ va)

/-! ### Spaces of lookups and outputs (R104 to R112) -/

/-- The space of the initial stage 1 lookup (R104, R106, R110 to R112). -/
def lookupSpace1 (ss : SecState) : Space := ss.space

/-- The PA space of stage 2 lookups (R104, R108, R111). 0 selects Secure, 1 Non-secure (G8); SW and NSW act
as written (DESIGN CHOICE, log 30). -/
def lookupSpace2 (r : SysRegs) (ss : SecState) (ipaSpace : Space) : Space :=
  match ss with
  | .secure =>
    if ipaSpace = .secure then (if r.vstcrEl2.sw then .nonSecure else .secure)
    else (if r.vtcrEl2.nsw then .nonSecure else .secure)
  | .nonSecure => .nonSecure
  | .realm => .realm
  | .root => .root

/-- The output PA space of a Secure stage 2 (R109, G8); for the other states the space of the state. SA and NSA act as
written: how SW and NSW force their Effective values is not in the source, and here they force nothing (R109; DESIGN
CHOICE, log 30). -/
def outSpace2 (r : SysRegs) (ss : SecState) (ipaSpace : Space) : Space :=
  match ss with
  | .secure =>
    if ipaSpace = .secure then (if r.vstcrEl2.sa then .nonSecure else .secure)
    else (if r.vtcrEl2.nsa then .nonSecure else .secure)
  | .nonSecure => .nonSecure
  | .realm => .realm
  | .root => .root

/-- The output space of a stage, of those R21, R104, R105, R109, R111 and R169 allow it: the space the
descriptor asks for where it is allowed, else the stage's own (log 42). In a Secure stage 1 walk the final
descriptor alone asks, even where NSTable has sent the lookups to Non-secure space: the source does not say
that the output follows (DESIGN CHOICE, log 65). -/
def outputSpace (c : WalkCfg) (asked : Space) : Space :=
  match c.ss with
  | .nonSecure => .nonSecure
  | .secure =>
    match c.stage with
    | .s1 => if asked = .nonSecure then .nonSecure else .secure
    | .s2 => if c.s2OutSpace = .nonSecure then .nonSecure else .secure
  | .realm =>
    match c.stage with
    | .s1 => if c.tableIsIpa then .realm else if asked = .nonSecure then .nonSecure else .realm
    | .s2 => if asked = .nonSecure then .nonSecure else .realm
  | .root => asked

/-! ### The controls of one walk -/

/-- The controls of a stage 1 walk (R55, R175 to R178, R205). The Effective value of DS is the bit as written, on every
PE: what makes the two differ is not in the source (R3; DESIGN CHOICE, log 67). So are those of EE and HPDn (R86, R166; DESIGN
CHOICE, log 67). Without FEAT_THE a written PnCH is handed to the
free `DecodeDesc` as it stands: the source does not say what it then does (DESIGN CHOICE, log 58). -/
def stage1Cfg (l : Launch) (r : SysRegs) (g : Regime) (ss : SecState) (upper : Bool) : WalkCfg :=
  let t := tcrOf r g
  let b := ttbrOf r g upper
  { stage := .s1, regime := g, ss := ss, upper := upper, inSpace := ss.space
    system := system1 r g, granule := t.tg upper, sz := t.tnsz upper, ds := t.ds
    opt52 := v8Opt52 (t.tg upper) t.ds l.featLpa
    ttst := l.featTtst, lva := l.featLva, lpa := l.featLpa
    twoRanges := twoRanges g, sl0 := 0, sl2 := false, skl := b.skl.toNat, baddr := b.baddr
    oaSize := oaSize1 l r g, paSize := physBits l
    ee := (sctlrOf r g).ee, hpd := t.hpd upper, assuredOnly := false, pnch := pnchOf r g
    protection := protectionEnabled l r g, tableIsIpa := hasStage2 l r g ss
    lookupSpace := lookupSpace1 ss, s2OutSpace := ss.space
    walkAttrs := t.tableAttrs upper, pttwi := pttwiOf l r g ss }

/-- The controls of a stage 2 walk: VSTCR_EL2 and VSTTBR_EL2 for a Secure IPA, VTCR_EL2 and VTTBR_EL2 for
any other (R28, R32, R34, R205, D25); VTCR_EL2.DS governs both (R34), its Effective value being the bit as written,
as that of SCTLR_EL2.EE is (DESIGN CHOICE, log 67); in Realm state NSA and NSW are RES0
(R33); SCTLR_EL2.EE gives the byte order (D17). -/
def stage2Cfg (l : Launch) (r : SysRegs) (ss : SecState) (ipaSpace : Space) : WalkCfg :=
  let sec := ipaSpace == .secure
  let b := if sec then r.vsttbrEl2 else r.vttbrEl2
  let tg := if sec then r.vstcrEl2.tg0 else r.vtcrEl2.tg0
  { stage := .s2, regime := .el10, ss := ss, upper := false, inSpace := ipaSpace
    system := r.unnamed.sysStage2, granule := tg
    sz := (if sec then r.vstcrEl2.t0sz else r.vtcrEl2.t0sz).toNat, ds := r.vtcrEl2.ds
    opt52 := v8Opt52 tg r.vtcrEl2.ds l.featLpa
    ttst := l.featTtst, lva := l.featLva, lpa := l.featLpa
    twoRanges := false, sl0 := (if sec then r.vstcrEl2.sl0 else r.vtcrEl2.sl0).toNat
    sl2 := if sec then r.vstcrEl2.sl2 else r.vtcrEl2.sl2
    skl := b.skl.toNat, baddr := b.baddr
    oaSize := boundedOaSize l r.unnamed.sysStage2 r.unnamed.oaStage2, paSize := physBits l
    ee := r.sctlrEl2.ee, hpd := true, assuredOnly := r.vtcrEl2.assuredOnly, pnch := false
    protection := false, tableIsIpa := false
    lookupSpace := lookupSpace2 r ss ipaSpace, s2OutSpace := outSpace2 r ss ipaSpace
    walkAttrs := r.vtcrEl2.tableAttrs, pttwi := false }

end Sys2Proof.Machine
end

