-- ==== Sys2Proof/Machine/Descriptors.lean ====
section
/-! DEFINITION. `DecodeDesc`: the default for VMSAv8-64, descriptors the launch fixes by value, and the free function
for the rest (spec/00_scope.md R14; 30_encoding.md R141 to R143; 41_hardening.md R223, R252). -/

namespace Sys2Proof.Machine

/-- A bit of the raw value at a launched position, or the free value where none is launched. -/
def launchedBit (pos : Option Nat) (raw : Raw) (free : Bool) : Bool :=
  match pos with
  | some n => raw.getLsbD n
  | none => free

/-- `RawValid(raw)` (R223, V5). -/
def rawValid (l : Launch) (sys : System) (raw : Raw) : Bool :=
  match sys with
  | .vmsav8 => launchedBit l.layout.validBit raw (Config.rawValid .vmsav8 raw)
  | .vmsav9 => launchedBit l.layout.valid128Bit raw (Config.rawValid .vmsav9 raw)

/-- The position of the Protected bit: launched, or free where none is. -/
def protectedPos (l : Launch) (sys : System) : Nat :=
  match sys with
  | .vmsav8 => l.layout.protectedBit.getD (Config.protectedBit .vmsav8)
  | .vmsav9 => l.layout.protected128Bit.getD (Config.protectedBit .vmsav9)

/-- `RawProtected(raw)`: the Protected bit (R223, V5). -/
def rawProtected (l : Launch) (sys : System) (raw : Raw) : Bool := raw.getLsbD (protectedPos l sys)

/-- The descriptor has a Protected bit: a stage 1 one where Protection is enabled (R221, R223). -/
def hasProtectedBit (l : Launch) (c : DecodeCtx) : Bool :=
  l.featThe && c.stage == .s1 && (c.system == .vmsav9 || c.pnch)

/-- The raw value without its Protected bit, which "does not change the OA, attributes or permissions of a
translation" (R224). -/
def withoutProtected (l : Launch) (c : DecodeCtx) (raw : Raw) : Raw :=
  if hasProtectedBit l c then raw &&& ~~~(1#128 <<< protectedPos l c.system) else raw

/-- Address bits [51:48] of a VMSAv8-64 descriptor: none unless the 52-bit OA size is in use; raw[15:12] with
the 64KB granule; raw[49:48] and, above them, raw[9:8] with the others (R143). -/
def defaultHighBits (g : Granule) (oa52 : Bool) (raw : Nat) : Nat :=
  if oa52 then
    match g with
    | .g64K => field raw 12 4 * 2 ^ 48
    | .g4K => field raw 48 2 * 2 ^ 48 + field raw 8 2 * 2 ^ 50
    | .g16K => field raw 48 2 * 2 ^ 48 + field raw 8 2 * 2 ^ 50
  else 0

/-- The address a VMSAv8-64 descriptor holds: bits [47:n] in place, and [51:48] (R143). -/
def defaultAddress (g : Granule) (oa52 : Bool) (n raw : Nat) : PAddr :=
  BitVec.ofNat 56 (alignDown (raw % 2 ^ 48) n + defaultHighBits g oa52 raw)

/-- The bits of the raw value that hold address bits [51:48], in place (R143). -/
def defaultHighPlaces (g : Granule) (oa52 : Bool) (raw : Nat) : Nat :=
  if oa52 then
    match g with
    | .g64K => field raw 12 4 * 2 ^ 12
    | .g4K => field raw 48 2 * 2 ^ 48 + field raw 8 2 * 2 ^ 8
    | .g16K => field raw 48 2 * 2 ^ 48 + field raw 8 2 * 2 ^ 8
  else 0

/-- "The remaining bits of raw, opaque" (R143): the raw value without the bits of its address. Those of a Block below
its size stay in the label, and have no other effect (R266; DESIGN CHOICE, log 69). -/
def defaultLabel (g : Granule) (oa52 : Bool) (n raw : Nat) : Raw :=
  BitVec.ofNat 128 (raw - alignDown (raw % 2 ^ 48) n - defaultHighPlaces g oa52 raw)

/-- The Block or Page descriptor of R143. The stage 2 bits FEAT_THE reads are at their launched
positions, and free where the launch gives none. -/
def defaultLeaf (l : Launch) (c : DecodeCtx) (raw : Raw) : LeafDesc :=
  let n := v8Lo c.granule c.level
  let label := defaultLabel c.granule c.oa52 n raw.toNat
  { oab := defaultAddress c.granule c.oa52 n raw.toNat
    attrs := .label label
    perms := label
    ns := Config.leafSpace c raw
    prot := false
    assuredOnly := launchedBit l.layout.assuredOnlyBit raw (Config.stage2AssuredOnly raw)
    topLevel0 := launchedBit l.layout.topLevel0Bit raw (Config.stage2TopLevel0 raw)
    topLevel1 := launchedBit l.layout.topLevel1Bit raw (Config.stage2TopLevel1 raw)
    mro := launchedBit l.layout.mroBit raw (Config.stage2Mro raw) }

/-- The Table descriptor of R143: next-level address, NSTable (bit 63), hierarchical permissions
(bits [62:59]). -/
def defaultTable (c : DecodeCtx) (raw : Raw) : TableDesc :=
  { next := defaultAddress c.granule c.oa52 c.granule.bits raw.toNat
    skl := 0
    nsTable := raw.getLsbD 63
    hier := BitVec.ofNat 16 (field raw.toNat 59 4)
    prot := false }

/-- The default `DecodeDesc` of a valid VMSAv8-64 descriptor (R143). -/
def defaultDecode (l : Launch) (c : DecodeCtx) (raw : Raw) : Desc :=
  if c.level = 3 then
    (if raw.getLsbD 1 then .page (defaultLeaf l c raw) else .invalid)
  else if raw.getLsbD 1 then .table (defaultTable c raw)
  else if v8BlockAllowed c.granule c.level c.ds c.lpa then .block (defaultLeaf l c raw)
  else .invalid

/-- The descriptor a launch row gives this raw value, if any; Protected bits are not compared. -/
def rowLookup (l : Launch) : List DescRow → DecodeCtx → Raw → Option Desc
  | [], _, _ => none
  | d :: rest, c, raw =>
    if d.system = c.system ∧ d.stage = c.stage ∧ withoutProtected l c d.raw = withoutProtected l c raw then
      some d.desc
    else rowLookup l rest c raw

/-- What a valid descriptor decodes to, but for its Protected bit: a launch row first, then the default for
VMSAv8-64 where the launch takes it, else the free function. -/
def decodeValid (l : Launch) (c : DecodeCtx) (raw : Raw) : Desc :=
  match rowLookup l l.descRows c raw with
  | some d => d
  | none =>
    if l.defaultDecode && c.system == .vmsav8 then defaultDecode l c raw
    else Config.decodeDesc c raw

/-- The descriptor with its Protected bit. -/
def Desc.withProtected (d : Desc) (prot : Bool) : Desc :=
  match d with
  | .invalid => .invalid
  | .table t => .table { t with prot := prot }
  | .block b => .block { b with prot := prot }
  | .page p => .page { p with prot := prot }

/-- "When Stage 2 Overlay permissions are enabled, S2OverlayPerm can provide MRO permission for an IPA" (R242):
S2POR_EL1 has this one role. -/
def overlayMro (r : SysRegs) (c : DecodeCtx) (raw : Raw) : Bool :=
  c.stage == .s2 && r.unnamed.s2Overlay && Config.overlayMro raw r.s2porEl1

/-- The descriptor with the MRO permission of an overlay beside its own: an overlay can add MRO and never take it
away. How the two combine is outside the source (R240; DESIGN CHOICE, log 54). -/
def Desc.withOverlay (d : Desc) (mro : Bool) : Desc :=
  match d with
  | .invalid => .invalid
  | .table t => .table t
  | .block b => .block { b with mro := b.mro || mro }
  | .page p => .page { p with mro := p.mro || mro }

/-- `DecodeDesc` (R14), and the MRO permission of an overlay (R242). `RawValid` and `RawProtected` are part of it
(R223): a raw value that is not valid is Invalid, the Protected bit is the raw value's, and nothing else of a valid
descriptor depends on it (R224). `RawValid` is given the raw value with its Protected bit: where the launch gives no
valid bit it is free, and may depend on the Protected bit, which the source does not rule out (DESIGN CHOICE, log
20). -/
def decodeDesc (l : Launch) (r : SysRegs) (c : DecodeCtx) (raw : Raw) : Desc :=
  if rawValid l c.system raw then
    ((decodeValid l c (withoutProtected l c raw)).withProtected
      (c.stage == .s1 && rawProtected l c.system raw)).withOverlay (overlayMro r c raw)
  else .invalid

/-- The decode context of a lookup (R14). VTCR_EL2.AssuredOnly is RES0 under VMSAv9-128 and acts as 0 there
(R139, G11). Without FEAT_THE, PnCH and AssuredOnly stand here as written, for the free function to heed or not:
the source does not say what they then do to a decode (R30, R220; DESIGN CHOICE, log 58). -/
def decodeCtx (c : WalkCfg) (level : Int) : DecodeCtx :=
  { system := c.system, stage := c.stage, granule := c.granule, level := level, oa52 := c.oa52
    ds := c.ds, lpa := c.lpa, pnch := c.pnch, hpd := c.hpd
    assuredOnly := c.system == .vmsav8 && c.assuredOnly }

end Sys2Proof.Machine
end

