-- ==== Sys2Proof/Machine/Hardening.lean ====
section
/-! DEFINITION. The Translation Hardening Extension: the RCW and RCWS checks, the AssuredOnly, GCSH and TopLevel checks
(spec/41_hardening.md). -/

namespace Sys2Proof.Machine

/-! ### RCW and RCWS checks (R226 to R235) -/

/-- What the checks read: whether Protection is enabled for the regime, the two masks, and the valid and
Protected bits of the old and the new value. -/
structure RcwCheck where
  protection : Bool
  rcwMask : BitVec 128
  rcwsMask : BitVec 128
  oldValid : Bool
  oldProtected : Bool
  newValid : Bool
  newProtected : Bool
  /-- The bits an update attempts to change: `new[i] != old[i]` (R226, D28). -/
  changed : BitVec 128
  deriving DecidableEq, Repr, Inhabited

/-- `Protected(regime, old)` (R223). -/
def RcwCheck.isProtected (c : RcwCheck) : Bool := c.protection && c.oldProtected

/-- `NonProtected(regime, old)` (R223). -/
def RcwCheck.isNonProtected (c : RcwCheck) : Bool := c.protection && !c.oldProtected

/-- `RCWStateFail` (R228). -/
def rcwStateFail (c : RcwCheck) : Bool :=
  (c.isProtected && (c.newProtected != c.oldProtected || c.newValid != c.oldValid)) ||
    (c.isNonProtected && c.newProtected != c.oldProtected)

/-- `RCWMaskFail` (R229): a changed bit whose mask bit is 0. -/
def rcwMaskFail (c : RcwCheck) : Bool :=
  c.isProtected && c.oldValid && (c.changed &&& ~~~c.rcwMask) != 0

/-- `RCWChecksFail` (R227). -/
def rcwChecksFail (c : RcwCheck) : Bool := rcwStateFail c || rcwMaskFail c

/-- `RCWSStateFail` (R231). -/
def rcwsStateFail (c : RcwCheck) : Bool :=
  c.newValid != c.oldValid &&
    (c.oldValid || (!c.oldValid && !c.protection) || (!c.oldValid && c.isNonProtected))

/-- `RCWSMaskFail` (R232). -/
def rcwsMaskFail (c : RcwCheck) : Bool := c.oldValid && (c.changed &&& ~~~c.rcwsMask) != 0

/-- `RCWSChecksFail` (R230). -/
def rcwsChecksFail (c : RcwCheck) : Bool := rcwsStateFail c || rcwsMaskFail c

/-- `RCWMayUpdate` (R226). -/
def rcwMayUpdate (c : RcwCheck) : Bool := !(c.protection && rcwChecksFail c)

/-- `RCWSMayUpdate` (R226). -/
def rcwsMayUpdate (c : RcwCheck) : Bool := rcwMayUpdate c && !rcwsChecksFail c

/-- The checks of an update of `old` to `new` under a regime (R226): the valid and Protected bits are those
of an 8-byte or a 16-byte descriptor. That the size of the update, and not the regime's translation system,
says which, where the two differ, is the model's choice (DESIGN CHOICE, log 49): R235 is silent. The Effective values of
the mask bits are the bits as written (DESIGN CHOICE, log 67). -/
def rcwCheckOf (l : Launch) (r : SysRegs) (g : Regime) (wide : Bool) (old new : Raw) : RcwCheck :=
  let sys := if wide then .vmsav9 else .vmsav8
  { protection := protectionEnabled l r g
    rcwMask := r.rcwmaskEl1, rcwsMask := r.rcwsmaskEl1
    oldValid := rawValid l sys old, oldProtected := rawProtected l sys old
    newValid := rawValid l sys new, newProtected := rawProtected l sys new
    changed := old ^^^ new }

/-! ### Checks on a stage 2 translation (R243 to R252) -/

/-- The IPA AssuredOnly attribute (Table D8-13, R243); 0 without FEAT_THE (R220). -/
def assuredOnlyAttr (l : Launch) (r : SysRegs) (fromDesc : Bool) : Bool :=
  l.featThe && (r.unnamed.sysStage2 == .vmsav9 || r.vtcrEl2.assuredOnly) && fromDesc

/-- `TopLevelFault0` (Table D8-14, R248). -/
def topLevelFault0 (tl0 tl1 top0 top1 : Bool) : Bool :=
  (!tl0 && tl1 && !top0 && top1) || (tl0 && !top0)

/-- `TopLevelFault1` (Table D8-15, R249). -/
def topLevelFault1 (tl0 tl1 top0 top1 : Bool) : Bool :=
  (tl0 && !tl1 && top0 && !top1) || (tl1 && !top1)

/-- What a stage 2 translation is for: the read of a stage 1 descriptor, or the final IPA. -/
inductive S2Use where
  /-- The descriptor address of a stage 1 lookup: the initial one or not, from TTBR1_EL1 or TTBR0_EL1, at a
  level with the Assured Translation property or not (R244, R250). -/
  | tableRead (first upper assured : Bool)
  /-- The stage 1 OA: whether the level that generated it has the property, stage 1 being enabled (R244),
  and whether the access is a privileged Guarded control stack data access from EL1 (R245). -/
  | final (assured gcsEl1 : Bool)
  deriving DecidableEq, Repr, Inhabited

/-- The level that generated the IPA has the Assured Translation property. -/
def S2Use.assured : S2Use → Bool
  | .tableRead _ _ a => a
  | .final a _ => a

/-- The FEAT_THE stage 2 Permission fault of a use of a stage 2 final descriptor, if any, at the level of
that descriptor (R244, R245, R250, D30). They are made on every use of a TLB entry too (R251), with VTCR_EL2 and the
translation system of stage 2 as they are then and not as the entry was read under, on which R251 is silent (DESIGN
CHOICE, log 24). -/
def hardeningFault (l : Launch) (r : SysRegs) (use : S2Use) (d : StageOk) : Option MmuFault :=
  if !l.featThe then none
  else
    let attr := assuredOnlyAttr l r d.assuredOnly
    let top : Bool :=
      match use with
      | .tableRead true upper _ =>
        if upper then topLevelFault1 r.vtcrEl2.tl0 r.vtcrEl2.tl1 d.topLevel0 d.topLevel1
        else topLevelFault0 r.vtcrEl2.tl0 r.vtcrEl2.tl1 d.topLevel0 d.topLevel1
      | _ => false
    let gcs : Bool :=
      match use with
      | .final _ g => g && r.vtcrEl2.gcsh && !attr
      | _ => false
    if top then some ⟨.permission, d.level, .s2, .topLevel⟩
    else if attr && !use.assured then some ⟨.permission, d.level, .s2, .assuredOnly⟩
    else if gcs then some ⟨.permission, d.level, .s2, .gcsh⟩
    else none

/-- The initial lookup level has the Assured Translation property (R240). -/
def assuredAtStart (l : Launch) (r : SysRegs) (g : Regime) (ss : SecState) (upper : Bool) : Bool :=
  l.featThe && g == .el10 && mEffective l r g ss && stage2Enabled l r g ss &&
    (if upper then r.vtcrEl2.tl1 else r.vtcrEl2.tl0)

end Sys2Proof.Machine
end

