-- ==== Sys2Proof/Machine/Vmsav9.lean ====
section
/-! DEFINITION. The VMSAv9-128 translation system: granule constants, start level, table and final addresses
(spec/45_vmsav9_128.md). -/

namespace Sys2Proof.Machine

/-- Stride (Table D8-43, R381). -/
def v9Stride (g : Granule) : Nat :=
  match g with
  | .g4K => 8
  | .g16K => 10
  | .g64K => 12

/-- PageIndex is Stride + 4 (R381). -/
def v9PageIndex (g : Granule) : Nat := v9Stride g + 4

/-- The regular start level (Table D8-44, R382, 90_conflicts.md C2), `none` for a TnSZ in no row (R383).
A stage with two VA ranges takes no TnSZ below 9 (R192, R409). -/
def v9RegularStart (g : Granule) (sz : Nat) (twoRanges : Bool) : Option Int :=
  if twoRanges ∧ sz < 9 then none
  else
    match g with
    | .g4K =>
      if 8 ≤ sz ∧ sz ≤ 11 then some (-2)
      else if 12 ≤ sz ∧ sz ≤ 19 then some (-1)
      else if 20 ≤ sz ∧ sz ≤ 27 then some 0
      else if 28 ≤ sz ∧ sz ≤ 35 then some 1
      else if 36 ≤ sz ∧ sz ≤ 43 then some 2
      else if 44 ≤ sz ∧ sz ≤ 48 then some 3
      else none
    | .g16K =>
      if 8 ≤ sz ∧ sz ≤ 9 then some (-1)
      else if 10 ≤ sz ∧ sz ≤ 19 then some 0
      else if 20 ≤ sz ∧ sz ≤ 29 then some 1
      else if 30 ≤ sz ∧ sz ≤ 39 then some 2
      else if 40 ≤ sz ∧ sz ≤ 48 then some 3
      else none
    | .g64K =>
      if 8 ≤ sz ∧ sz ≤ 11 then some 0
      else if 12 ≤ sz ∧ sz ≤ 23 then some 1
      else if 24 ≤ sz ∧ sz ≤ 35 then some 2
      else if 36 ≤ sz ∧ sz ≤ 47 then some 3
      else none

/-- X: "The number of address bits resolved by the table walk process" (R386). -/
def v9X (g : Granule) (sz : Nat) : Nat := 64 - sz - v9PageIndex g

/-- "(3 - level)*Stride": Y of the start level (R387) and K of a current level (R396). -/
def v9Below (g : Granule) (level : Int) : Nat := (3 - level).toNat * v9Stride g

/-- Z: "The number of address bits resolved at the start level" (R388). -/
def v9Z (g : Granule) (sz : Nat) (start : Int) : Nat := v9X g sz - v9Below g start

/-- "Start level address = BaseAddr[55:Z+4]:IA[64-TnSZ-1:64-TnSZ-Z]:0b0000" (R391). -/
def v9StartAddr (g : Granule) (sz : Nat) (start : Int) (base : PAddr) (ia : Nat) : Nat :=
  let z := v9Z g sz start
  alignDown base.toNat (z + 4) + field ia (64 - sz - z) z * 16

/-- N: "The number of address bits resolved at the next lookup level" (R398). -/
def v9N (g : Granule) (skl : BitVec 2) : Nat := (skl.toNat + 1) * v9Stride g

/-- "Next level address = Next level table address[55:N+4]:IA[K+Pageindex-1:K+PageIndex-N]:0b0000" (R401). -/
def v9NextAddr (g : Granule) (level : Int) (skl : BitVec 2) (next : PAddr) (ia : Nat) : Nat :=
  let n := v9N g skl
  alignDown next.toNat (n + 4) + field ia (v9Below g level + v9PageIndex g - n) n * 16

/-- A Table descriptor's SKL field makes it an Invalid descriptor (Table D8-45, R399). -/
def v9SklInvalid (g : Granule) (skl : BitVec 2) : Bool := g != .g4K && skl == 3

/-- "the size of the next level table is greater than the permitted translation table size": N > K
(R400, D13). -/
def v9TableTooLarge (g : Granule) (level : Int) (skl : BitVec 2) : Bool :=
  decide (v9Below g level < v9N g skl)

/-- A Block descriptor is allowed at the level (Table D8-46, R405). -/
def v9BlockAllowed (g : Granule) (level : Int) : Bool :=
  match g with
  | .g4K => level = 0 || level = 1 || level = 2
  | .g16K => level = 1 || level = 2
  | .g64K => level = 1 || level = 2

/-- The number of IA bits a final descriptor maps directly: m = K + PageIndex (R406). -/
def v9M (g : Granule) (level : Int) : Nat := v9Below g level + v9PageIndex g

/-- "OAB[55:m] : IA[m-1:0]" (R406). Nonzero bits of OAB below m are dropped and no error (DESIGN CHOICE, log 69). -/
def v9FinalAddr (g : Granule) (level : Int) (oab : PAddr) (ia : Nat) : Nat :=
  alignDown oab.toNat (v9M g level) + ia % 2 ^ v9M g level

/-- The address has a bit at or above the OA size (R392, R402, R407). -/
def aboveOaSize (addr oaSize : Nat) : Bool := addr / 2 ^ oaSize != 0

end Sys2Proof.Machine
end

