-- ==== Sys2Proof/Machine/Walk.lean ====
section
/-! DEFINITION. One stage of a translation table walk: the descriptor read, the start of the walk, what each descriptor
does, and the loop (spec/20_memory.md R80 to R95; 40_walk_generic.md R162 to R169, R183; 42_granule_4k.md R283 and
siblings; 45_vmsav9_128.md R408). -/

namespace Sys2Proof.Machine

/-! ### Results with what the lookups did -/

/-- Continue a part of a step with its value. -/
def Res.bind {α β : Type} (x : Res α) (f : α → Res β) : Res β :=
  match x with
  | .ok a => f a
  | .mmu e => .mmu e
  | .stop e => .stop e
  | .refuse e => .refuse e

/-- What one lookup did: the descriptor it read (R93), and the entry it permits a TLB to hold, if any (R70). -/
structure LookupNote where
  read : TableRead
  entry : Option TlbEntry
  deriving DecidableEq, Repr

/-- A result, and what the lookups before it did. -/
abbrev Traced (α : Type) := List LookupNote × Res α

/-- The entries that a TLB may gain of these lookups, in their order (R70). -/
def tlbEntries (notes : List LookupNote) : List TlbEntry := notes.filterMap LookupNote.entry

/-- The descriptors these lookups read, the latest first. -/
def descReads (notes : List LookupNote) : List TableRead := (notes.map LookupNote.read).reverse

/-- What these lookups read is recorded (R93). -/
def State.noteWalk (s : State) (notes : List LookupNote) : State := s.noteReads (descReads notes)

/-- A result of no lookup. -/
def Traced.pure {α : Type} (x : Res α) : Traced α := ([], x)

/-- Continue a traced part of a step with its value. -/
def Traced.bind {α β : Type} (x : Traced α) (f : α → Traced β) : Traced β :=
  match x.2 with
  | .ok a => (x.1 ++ (f a).1, (f a).2)
  | .mmu e => (x.1, .mmu e)
  | .stop e => (x.1, .stop e)
  | .refuse e => (x.1, .refuse e)

/-! ### The descriptor read (R80 to R86, R95) -/

/-- `DescBytes(system)` (R81). -/
def descBytes (sys : System) : Nat :=
  match sys with
  | .vmsav8 => 8
  | .vmsav9 => 16

/-- A write is ordered before a descriptor read: with `force` those FEAT_ETS2 and FEAT_ETS3 order before it (R100,
R101), and where the walk may not ignore Reduced Coherence writes those a barrier has settled (R96, R117). -/
def PendingWrite.beforeRead (force mayIgnore : Bool) (w : PendingWrite) : Bool :=
  (force && w.etsOrdered) || (!mayIgnore && w.settled)

/-- The write as a walk takes it: the Reduced Coherence property counts only where R115 applies (R117). -/
def PendingWrite.forWalk (mayIgnore : Bool) (w : PendingWrite) : PendingWrite :=
  { w with reduced := mayIgnore && w.reduced }

/-- The bytes a descriptor read gets: the writes ordered before it, and of the writes to them not yet guaranteed
to be observed a choice, each whole (R83, R95); with nothing open there is nothing to choose. -/
def readBytes (s : State) (pt : ChoicePoint) (force mayIgnore : Bool) (k n : Nat) : List Byte :=
  let ws := (s.pendingWrites.filter fun w => w.overlaps k n).map (PendingWrite.forWalk mayIgnore)
  let c := orderedPart (PendingWrite.beforeRead force mayIgnore) ws
  let p := openPart (PendingWrite.beforeRead force mayIgnore) ws
  let mask := chooseMask s.draws pt (p.filter fun w => !w.cells.isEmpty)
  observedBytes s.mem (c ++ p) (2 ^ c.length - 1 + 2 ^ c.length * mask) k n

/-- `TTDRead(space, pa, n, ee)`: one single-copy atomic read of `n` bytes (R82), by a walk that R115 lets ignore
Reduced Coherence writes or not. -/
def ttdRead (s : State) (pt : ChoicePoint) (force mayIgnore : Bool) (sp : Space) (pa n : Nat) (ee : Bool) :
    Res Raw :=
  if physExists s.launch sp pa n then
    .ok (BitVec.ofNat 128 (valueOfBytes ee (readBytes s pt force mayIgnore (memKey sp pa) n)))
  else .stop (.noSuchAddress sp pa)

/-- The EE a direct write that waits gives the register whose EE orders the descriptors of a walk (R86,
D17). -/
def SysWrite.eeFor (c : WalkCfg) (w : SysWrite) : Option Bool :=
  match w with
  | .sctlrEl1 v => if c.stage = .s1 ∧ c.regime = .el10 then some v.ee else none
  | .sctlrEl2 v => if c.stage = .s2 ∨ c.regime = .el20 ∨ c.regime = .el2 then some v.ee else none
  | .sctlrEl3 v => if c.stage = .s1 ∧ c.regime = .el3 then some v.ee else none
  | _ => none

/-- The EE of that register as the last Context synchronization event left it: the bit as written is its Effective
value (R86; DESIGN CHOICE, log 67). -/
def syncedEe (s : State) (c : WalkCfg) : Bool :=
  match c.stage with
  | .s1 => (sctlrOf s.regs c.regime).ee
  | .s2 => s.regs.sctlrEl2.ee

/-! ### The start of a walk -/

/-- Where a walk goes next: another lookup, or its result (R164). -/
inductive WalkStep where
  | go (pos : WalkPos)
  | done (r : StageOk)
  deriving DecidableEq, Repr

/-- The launched behaviour at an open point. -/
def Launch.behaviour (l : Launch) (p : OpenPoint) : OpenBehaviour :=
  match p with
  | .tnszOutOfRange => l.tnszOutOfRange
  | .s2InputOutOfRange => l.s2InputOutOfRange
  | .oneRangeVa => l.oneRangeVa

/-- An MMU fault at an open point: an Address size or a Translation fault, since a translation raises no
Alignment fault (R512) and Permission and Access flag faults enter through `CheckPerms` (R504, R505). -/
def openFault (c : WalkCfg) (addressSize : Bool) (level : Fin 6) : MmuFault :=
  ⟨if addressSize then .addressSize else .translation, (level.val : Int) - 2, c.stage, .openPoint⟩

/-- The most bits an OA of the stage has (R10, R20). -/
def maxOaBits (c : WalkCfg) : Nat :=
  match c.system with
  | .vmsav8 => v8MaxOa c.opt52
  | .vmsav9 => 56

/-- The result of a stage at an open point. Nothing of it is fixed but what rules of the source fix: the OA
has no more bits than the stage's OAs have (R20), and keeps the low four bits of the input address, so that the
place of a descriptor stays aligned to its size (R85); its space is one the stage may give (R169), and its level
has the Assured Translation property only where the initial lookup level has (R240). -/
def openResult (c : WalkCfg) (assured : Bool) (ia : Nat) (oa : PAddr) (sp : Space) (attrs : Attrs) (perms : Perms)
    (level : Fin 6) (asd ao top0 top1 mro : Bool) : StageOk :=
  { oa := alignDown (oa.toNat % 2 ^ maxOaBits c) 4 + ia % 2 ^ 4, space := outputSpace c sp, attrs := attrs, perms := some perms
    level := (level.val : Int) - 2, assured := assured && asd
    assuredOnly := ao, topLevel0 := top0, topLevel1 := top1, mro := mro }

/-- An open point (D7, D31, D34): the launched behaviour, or a free outcome (log 16). -/
def openPoint (s : State) (p : OpenPoint) (c : WalkCfg) (assured : Bool) (ia : Nat) : Res WalkStep :=
  match s.launch.behaviour p with
  | .refuse => .refuse (.openPoint p)
  | .faults z l => .mmu (openFault c z l)
  | .free =>
    match Config.openOutcome s.draws p c.stage ia with
    | .fault z l => .mmu (openFault c z l)
    | .ok oa sp attrs perms l asd ao top0 top1 mro =>
      .ok (.done (openResult c assured ia oa sp attrs perms l asd ao top0 top1 mro))

/-- The first VMSAv8-64 lookup, at a known level, after the check of the base address (R163, R183). -/
def v8Begin (c : WalkCfg) (assured : Bool) (level : Int) (ia : Nat) : Res WalkStep :=
  if v8BaseTooLarge (v8InitialBase c level) c.oaSize c.opt52 then
    .mmu ⟨.addressSize, 0, c.stage, .baseAddress⟩
  else
    .ok (.go
      { level := level, da := v8DescAddr c.granule level true c.sz c.paSize (v8BaseAddr c.baddr c.oa52) ia
        space := c.lookupSpace, first := true, hier := none, assured := assured })

/-- The first VMSAv9-128 lookup, at a known start level (R391, R392). -/
def v9Begin (c : WalkCfg) (assured : Bool) (level : Int) (ia : Nat) : Res WalkStep :=
  let da := v9StartAddr c.granule c.sz level c.baddr ia
  if aboveOaSize da c.oaSize then .mmu ⟨.addressSize, 0, c.stage, .startAddress⟩
  else
    .ok (.go
      { level := level, da := da, space := c.lookupSpace, first := true, hier := none, assured := assured })

/-- An IPA above the stage 2 input size (R284, D31). -/
def s2InputTooLarge (c : WalkCfg) (ia : Nat) : Bool := c.stage == .s2 && decide (2 ^ (64 - c.sz) ≤ ia)

/-- `StartLevel` and the checks before the first lookup (R162, R283, R323, R363, R382 to R385, R515(b),
(c)). That the open point of an IPA above the stage 2 input size (R284, R363) comes before the Address size
fault of the base address (R183, R392) is the model's choice under both systems: the source gives no order. So is
that under VMSAv9-128 the open point of a size in no row of the table (R383, D7) comes before all of these, an IPA
above the stage 2 input size among them (R284, D31; DESIGN CHOICE, log 59). -/
def startWalk (s : State) (c : WalkCfg) (assured : Bool) (ia : Nat) : Res WalkStep :=
  match c.system with
  | .vmsav8 =>
    match c.stage with
    | .s1 =>
      match v8S1Start c with
      | none => openPoint s .tnszOutOfRange c assured ia
      | some level => v8Begin c assured level ia
    | .s2 =>
      match v8S2Start c with
      | none => .mmu ⟨.translation, 0, .s2, .stage2Start⟩
      | some level =>
        if s2InputTooLarge c ia then openPoint s .s2InputOutOfRange c assured ia
        else v8Begin c assured level ia
  | .vmsav9 =>
    match v9RegularStart c.granule c.sz c.twoRanges with
    | none => openPoint s .tnszOutOfRange c assured ia
    | some regular =>
      if 3 < regular + c.skl then .mmu ⟨.translation, 0, c.stage, .startLevel⟩
      else if s2InputTooLarge c ia then openPoint s .s2InputOutOfRange c assured ia
      else v9Begin c assured (regular + c.skl) ia

/-! ### What a descriptor does -/

/-- The number of low IA bits an entry read at a level leaves to later lookups or to the OA. -/
def descLow (c : WalkCfg) (level : Int) : Nat :=
  match c.system with
  | .vmsav8 => v8Lo c.granule level
  | .vmsav9 => v9M c.granule level

/-- The space of the next lookup: in a Secure stage 1 walk NSTable may turn it Non-secure and nothing
turns it back (R106, D24); in a Secure stage 2 walk SW or NSW has chosen it (R108); the other states have
one space for their lookups (R104, R110 to R112). -/
def nextSpace (c : WalkCfg) (p : WalkPos) (t : TableDesc) : Space :=
  match c.ss with
  | .secure =>
    match c.stage with
    | .s1 => if p.space = .secure ∧ t.nsTable = false then .secure else .nonSecure
    | .s2 => c.lookupSpace
  | .nonSecure => .nonSecure
  | .realm => .realm
  | .root => .root

/-- Hierarchical permissions accumulate at stage 1 where HPDn is 0 (R166). The initial value of `hier` is not in the
source: here it is none, and the permissions of the first Table descriptor are taken as they are, with nothing to
accumulate (DESIGN CHOICE, log 37). -/
def nextHier (c : WalkCfg) (p : WalkPos) (t : TableDesc) : Option Hier :=
  if c.stage = .s1 ∧ c.hpd = false then
    (match p.hier with
     | none => some t.hier
     | some h => some (Config.accumulateHier h t.hier))
  else p.hier

/-- The next level has the Assured Translation property: this one has it, and the Table descriptor is
Protected and came from an IPA with MRO (R240, D29). -/
def nextAssured (c : WalkCfg) (p : WalkPos) (t : TableDesc) (mro : Bool) : Bool :=
  p.assured && c.protection && t.prot && mro

/-- The next lookup, at a level and an address. -/
def nextPos (c : WalkCfg) (p : WalkPos) (t : TableDesc) (mro : Bool) (level : Int) (da : Nat) : WalkPos :=
  { level := level, da := da, space := nextSpace c p t, first := false
    hier := nextHier c p t, assured := nextAssured c p t mro }

/-- A VMSAv8-64 Table descriptor: the next level is `level + 1` (R166, R167, D14). Bits of its next-level address
above those an OA has, 48 or with the 52-bit option 52, are dropped, be they supplied: the source does not say
what they do (N37; DESIGN CHOICE, log 63). -/
def v8Table (c : WalkCfg) (p : WalkPos) (t : TableDesc) (mro : Bool) (ia : Nat) : Res WalkStep :=
  if v8TableAllowed c.granule p.level c.ds then
    .ok (.go (nextPos c p t mro (p.level + 1)
      (v8DescAddr c.granule (p.level + 1) false c.sz c.paSize (t.next.toNat % 2 ^ v8MaxOa c.opt52) ia)))
  else .mmu ⟨.translation, p.level, c.stage, .typeNotAllowed⟩

/-- A VMSAv9-128 Table descriptor: an SKL that makes it Invalid, the table size, the next level address,
in this order; the next level is `level + 1 + SKL` (R396 to R402, R515(e)). -/
def v9Table (c : WalkCfg) (p : WalkPos) (t : TableDesc) (mro : Bool) (ia : Nat) : Res WalkStep :=
  if v9SklInvalid c.granule t.skl then .mmu ⟨.translation, p.level, c.stage, .invalidDescriptor⟩
  else if v9TableTooLarge c.granule p.level t.skl then .mmu ⟨.translation, p.level, c.stage, .tableSize⟩
  else
    let da := v9NextAddr c.granule p.level t.skl t.next ia
    if aboveOaSize da c.oaSize then .mmu ⟨.addressSize, p.level, c.stage, .nextAddress⟩
    else .ok (.go (nextPos c p t mro (p.level + 1 + t.skl.toNat) da))

/-- The result of the stage, given the OA (R168, R169). Where no Table descriptor gave hierarchical permissions there
is nothing to combine, and the permissions are the descriptor's own (R166; DESIGN CHOICE, log 37). -/
def leafOk (c : WalkCfg) (p : WalkPos) (d : LeafDesc) (oa : Nat) : StageOk :=
  { oa := oa, space := outputSpace c d.ns, attrs := d.attrs
    perms := some (match p.hier with
      | none => d.perms
      | some h => Config.combinePerms h d.perms)
    level := p.level, assured := p.assured
    assuredOnly := d.assuredOnly, topLevel0 := d.topLevel0, topLevel1 := d.topLevel1, mro := d.mro }

/-- A Block or Page descriptor ends the walk (R168, R406, R407). -/
def leafStep (c : WalkCfg) (p : WalkPos) (d : LeafDesc) (ia : Nat) : Res WalkStep :=
  match c.system with
  | .vmsav8 => .ok (.done (leafOk c p d (v8FinalOa c.granule p.level c.opt52 d.oab ia)))
  | .vmsav9 =>
    if aboveOaSize (v9FinalAddr c.granule p.level d.oab ia) c.oaSize then
      .mmu ⟨.addressSize, p.level, c.stage, .finalAddress⟩
    else .ok (.done (leafOk c p d (v9FinalAddr c.granule p.level d.oab ia)))

/-- A Block descriptor is allowed at the level (R264, R304, R344, R405). -/
def blockAllowed (c : WalkCfg) (level : Int) : Bool :=
  match c.system with
  | .vmsav8 => v8BlockAllowed c.granule level c.ds c.lpa
  | .vmsav9 => v9BlockAllowed c.granule level

/-- What the descriptor read at a position does; `mro` is the stage 2 permission of the IPA it came from
(R164 to R169). -/
def descStep (c : WalkCfg) (p : WalkPos) (d : Desc) (mro : Bool) (ia : Nat) : Res WalkStep :=
  match d with
  | .invalid => .mmu ⟨.translation, p.level, c.stage, .invalidDescriptor⟩
  | .table t =>
    match c.system with
    | .vmsav8 => v8Table c p t mro ia
    | .vmsav9 => v9Table c p t mro ia
  | .block b =>
    if blockAllowed c p.level then leafStep c p b ia
    else .mmu ⟨.translation, p.level, c.stage, .typeNotAllowed⟩
  | .page g =>
    if p.level = 3 then leafStep c p g ia else .mmu ⟨.translation, p.level, c.stage, .typeNotAllowed⟩

/-! ### The loop -/

/-- What one lookup of a walk reads besides the walk's own controls. -/
structure WalkEnv where
  s : State
  regs : SysRegs
  force : Bool
  purpose : Purpose
  /-- The stage 1 level a stage 2 walk serves, 4 for the final IPA and for stage 1 itself. -/
  ctx : Int

/-- Where a descriptor lies in physical memory, and the MRO permission of its IPA (R178, R240). -/
structure DescPlace where
  pa : Nat
  space : Space
  mro : Bool
  deriving DecidableEq, Repr

/-- The EE one descriptor read uses: the translation's, or while a write of the register waits the old value
or a new one, each read by itself (R87, R574). -/
def lookupEe (e : WalkEnv) (c : WalkCfg) (p : WalkPos) (ia : Nat) : Bool :=
  pick e.s.draws (.ee e.purpose c.stage ia p.level p.da e.ctx) c.ee
    (match e.s.pendingRegs.filterMap (SysWrite.eeFor c) with
      | [] => []
      | v :: vs => syncedEe e.s c :: v :: vs)

/-- Read and decode the descriptor of a position; mismatched attributes are refused (R93, D16). Where PTTWI of the
regime is read-only 0 the read ignores no Reduced Coherence write (R117), one of stage 2 of EL1&0 among them. -/
def lookup (e : WalkEnv) (c : WalkCfg) (p : WalkPos) (at_ : DescPlace) (ia : Nat) : Res Desc :=
  if attrsMismatch e.s.softAccesses (memKey at_.space at_.pa) (descBytes c.system) c.walkAttrs then
    .refuse .mismatchedAttributes
  else
    (ttdRead e.s (.mem e.purpose c.stage ia p.level p.da e.ctx) e.force
      (pttwiWritable e.s.launch e.regs c.regime c.ss) at_.space at_.pa (descBytes c.system) (lookupEe e c p ia)).bind fun raw =>
        .ok (decodeDesc e.s.launch e.regs (decodeCtx c p.level) raw)

/-- The TLB entry of a lookup (R70, R71). -/
def entryOf (c : WalkCfg) (p : WalkPos) (d : Desc) (mro : Bool) (ia : Nat) : TlbEntry :=
  { cfg := c, lowBits := descLow c p.level, iaHigh := ia / 2 ^ descLow c p.level, pos := p, desc := d
    mro := mro }

/-- The most lookups one stage makes: levels -2 to 3 (R408). -/
def maxLookups : Nat := 6

/-- Using the final descriptor with these permissions can give an Access flag fault of its stage (R70, R505);
none can where `CheckPerms` is the identity (R511). -/
def accessFlagMarked (l : Launch) (st : Stage) (perms : Option Perms) : Bool :=
  !l.checkPermsIdentity &&
    match perms with
    | some p => Config.accessFlag st p
    | none => false

/-- The use of a descriptor gives no TLB-uncacheable fault: no Translation or Address size fault, as it leads
to a step of the walk, and no Access flag fault (R70, R210, R507). -/
def useCacheable (l : Launch) (c : WalkCfg) (x : Res WalkStep) : Bool :=
  match x with
  | .ok (.go _) => true
  | .ok (.done r) => !accessFlagMarked l c.stage r.perms
  | _ => false

/-- What a lookup did: the descriptor it read (R92, R93), and the entry it leaves for the TLB, none where using it
gives a TLB-uncacheable fault, whatever access reads it (R70, R210). -/
def lookupNote (l : Launch) (c : WalkCfg) (p : WalkPos) (d : Desc) (at_ : DescPlace) (ia : Nat) : LookupNote :=
  { read := ⟨memKey at_.space at_.pa, descBytes c.system, c.walkAttrs⟩
    entry := if useCacheable l c (descStep c p d at_.mro ia) then some (entryOf c p d at_.mro ia) else none }

/-- What a descriptor does, with the note of its lookup. -/
def descUse (l : Launch) (c : WalkCfg) (p : WalkPos) (d : Desc) (at_ : DescPlace) (ia : Nat) : Traced WalkStep :=
  ([lookupNote l c p d at_ ia], descStep c p d at_.mro ia)

/-- The lookups of one stage from a position on (R162, R408). -/
def walkLoop (e : WalkEnv) (c : WalkCfg) (place : WalkPos → Traced DescPlace) (ia : Nat) :
    Nat → WalkPos → Traced StageOk
  | 0, _ => Traced.pure (.stop .walkTooLong)
  | n + 1, p =>
    (place p).bind fun at_ =>
      (Traced.pure (lookup e c p at_ ia)).bind fun d =>
        (descUse e.s.launch c p d at_ ia).bind fun x =>
          match x with
          | .go p' => walkLoop e c place ia n p'
          | .done r => Traced.pure (.ok r)

/-- Continue from a walk step. -/
def walkFrom (e : WalkEnv) (c : WalkCfg) (place : WalkPos → Traced DescPlace) (ia : Nat) (x : Res WalkStep) :
    Traced StageOk :=
  (Traced.pure x).bind fun y =>
    match y with
    | .go p => walkLoop e c place ia maxLookups p
    | .done r => Traced.pure (.ok r)

/-! ### The TLB in one stage (R210) -/

/-- The entry answers this input address of this stage, regime, Security state, range and space. -/
def TlbEntry.answers (t : TlbEntry) (c : WalkCfg) (ia : Nat) : Bool :=
  t.cfg.stage == c.stage && t.cfg.regime == c.regime && t.cfg.ss == c.ss && t.cfg.upper == c.upper &&
    t.cfg.inSpace == c.inSpace && ia / 2 ^ t.lowBits == t.iaHigh

/-- A Block or Page descriptor. -/
def Desc.isFinal : Desc → Bool
  | .block _ => true
  | .page _ => true
  | _ => false

/-- The controls a cached entry is used under: those it was read under, and the space of lookups of now
(R71). The FEAT_THE checks of its use are no part of these (`hardeningFault`, log 24). -/
def hitCfg (c : WalkCfg) (t : TlbEntry) : WalkCfg := { t.cfg with lookupSpace := c.lookupSpace }

/-- What a cached entry does for an input address. -/
def TlbEntry.use (t : TlbEntry) (c : WalkCfg) (ia : Nat) : Res WalkStep :=
  descStep (hitCfg c t) t.pos t.desc t.mro ia

/-- The entries that may stand in for the walk: all that answer and whose use gives no TLB-uncacheable fault,
as no other is cached (R210); with EPDn 1 those that end it, since "no translation table walk is done"
(R193); none for an AT instruction where `ATMayUseTLB` is false (R474). An entry that is so not used counts as no
answer: with EPDn 1 the AT instruction gets the level 0 Translation fault of a TLB miss, though R474 says that a walk
occurs; the source does not say which rule comes first (R193, R474; DESIGN CHOICE, log 23). -/
def usableEntries (s : State) (pp : Purpose) (c : WalkCfg) (ia : Nat) (epd : Bool) : List TlbEntry :=
  if pp = .atInstr ∧ s.launch.atMayUseTlb = false then []
  else
    s.tlb.filter fun t =>
      t.answers c ia && useCacheable s.launch c (t.use c ia) && (!epd || t.desc.isFinal)

/-- The controls of the lookups after a hit on a cached Table descriptor: the shape of the walk is the
one the entry was read under, all else is as it is now (R71, R574). -/
def resumeCfg (c : WalkCfg) (t : TlbEntry) : WalkCfg :=
  { c with
    system := t.cfg.system, granule := t.cfg.granule, sz := t.cfg.sz, ds := t.cfg.ds, opt52 := t.cfg.opt52 }

/-- One stage: an entry of the TLB that answers, or a walk (R210). With EPDn 1 a TLB miss is a level 0
Translation fault (R193). -/
def runStage (e : WalkEnv) (c : WalkCfg) (place : WalkPos → Traced DescPlace) (ia : Nat)
    (assured epd : Bool) : Traced StageOk :=
  match pick e.s.draws (.tlb e.purpose c.stage ia e.ctx) none
      ((usableEntries e.s e.purpose c ia epd).map some) with
  | none =>
    if epd then Traced.pure (.mmu ⟨.translation, 0, .s1, .epd⟩)
    else walkFrom e c place ia (startWalk e.s c assured ia)
  | some t => walkFrom e (resumeCfg c t) place ia (t.use c ia)

end Sys2Proof.Machine
end

