-- ==== Sys2Proof/Machine/Translate.lean ====
section
/-! DEFINITION. `Translate`: the disabled stages, the checks before a stage 1 walk, stage 2 with its uses, the
permission checks, and the ordering of FEAT_ETS2 and FEAT_ETS3 (spec/40_walk_generic.md R160, R186 to R196;
46_disabled_stages.md R420 to R431; 41_hardening.md R244 to R250; 60_exceptions.md R511, R515; 20_memory.md R100,
R101). -/

namespace Sys2Proof.Machine

/-! ### Disabled stage 1 (R421 to R424) -/

/-- `Stage1DisabledAttrs(regime, acc)` (R424). -/
def disabledAttrs (l : Launch) (r : SysRegs) (g : Regime) (ss : SecState) (kind : AccessKind) : Attrs :=
  if g = .el10 ∧ dcEffective l r ss = true then
    .normal .writeBackReadWriteAlloc .writeBackReadWriteAlloc .nonShareable (some r.hcrEl2.dct)
      (if l.featXs then some false else none)
  else if kind ≠ .fetch then .deviceNGnRnE (if l.featXs then some true else none)
  else if (sctlrOf r g).i then
    .normal .writeThroughReadAlloc .writeThroughReadAlloc .outerShareable none
      (if l.featXs then some true else none)
  else
    .normal .nonCacheable .nonCacheable .outerShareable none (if l.featXs then some true else none)

/-- The flat-mapped address; the top byte is dropped under `TopByteIgnore` (R421, R422, D6). -/
def flatAddress (r : SysRegs) (g : Regime) (va : Word) : Nat :=
  if topByteIgnore r g (upperRange g va) then va.toNat % 2 ^ 56 else va.toNat

/-- The output of a disabled stage 1 (R421). -/
def flatOk (l : Launch) (r : SysRegs) (g : Regime) (ss : SecState) (va : Word) (kind : AccessKind) : StageOk :=
  { oa := flatAddress r g va, space := ss.space, attrs := disabledAttrs l r g ss kind, perms := none
    level := 0, assured := false, assuredOnly := false, topLevel0 := false, topLevel1 := false, mro := false }

/-- `FlatStage1(regime, va, acc)`, with the Address size check of R422 (R421, D32). -/
def flatStage1 (l : Launch) (r : SysRegs) (g : Regime) (ss : SecState) (va : Word) (kind : AccessKind) :
    Res StageOk :=
  if aboveOaSize (flatAddress r g va) (oaSize1 l r g) then .mmu ⟨.addressSize, 0, .s1, .flatAddress⟩
  else .ok (flatOk l r g ss va kind)

/-! ### Stage 2 (R160, R178, R244 to R250) -/

/-- In stage 2 a descriptor's place is its own address. -/
def placeOf (p : WalkPos) : Traced DescPlace := Traced.pure (.ok ⟨p.da, p.space, false⟩)

/-- Stage 2 of one address, with the FEAT_THE checks of its use. -/
def stage2 (e : WalkEnv) (ss : SecState) (use : S2Use) (ipa : Nat) (sp : Space) : Traced StageOk :=
  (runStage e (stage2Cfg e.s.launch e.regs ss sp) placeOf ipa false false).bind fun d =>
    match hardeningFault e.s.launch e.regs use d with
    | some f => Traced.pure (.mmu f)
    | none => Traced.pure (.ok d)

/-- Attributes that mean Device memory (R94). -/
def Attrs.isDevice : Attrs → Bool
  | .label b => Config.isDevice b
  | .deviceNGnRnE _ => true
  | .normal _ _ _ _ _ => false

/-- A stage 1 descriptor address that translates to Device memory is refused, whatever HCR_EL2.PTW holds:
what PTW does is not in the source (R94, D16, log 45). -/
def tablePolicy (d : StageOk) : Res Unit := if d.attrs.isDevice then .refuse .deviceTable else .ok ()

/-- The place of a stage 1 descriptor: translated by stage 2 where its address is an IPA, flat mapped
where stage 2 is disabled (R176 to R178, R430). -/
def stage1Place (e : WalkEnv) (c : WalkCfg) (p : WalkPos) : Traced DescPlace :=
  if c.tableIsIpa && vmEffective e.s.launch e.regs c.ss then
    (stage2 { e with ctx := p.level } c.ss (.tableRead p.first c.upper p.assured) p.da p.space).bind fun d =>
      (Traced.pure (tablePolicy d)).bind fun _ => Traced.pure (.ok ⟨d.oa, d.space, d.mro⟩)
  else placeOf p

/-! ### Stage 1 (R186 to R197) -/

/-- The environment of the lookups of a request. -/
def envOf (s : State) (r : SysRegs) (force : Bool) (q : Request) : WalkEnv := ⟨s, r, force, q.purpose, 4⟩

/-- "EL0 access" (R195): made at EL0, and an unprivileged one made elsewhere where the launch counts it. -/
def isEl0Access (l : Launch) (q : Request) : Bool :=
  q.el == .el0 || (l.e0pdUnprivileged && !q.acc.privileged)

/-- Stage 1 of a request by the TLB or a walk. -/
def stage1Walk (s : State) (r : SysRegs) (force : Bool) (q : Request) : Traced StageOk :=
  let upper := upperRange q.regime q.va
  let c := stage1Cfg s.launch r q.regime q.ss upper
  runStage (envOf s r force q) c (stage1Place (envOf s r force q) c) (checkedVa r q.regime q.va)
    (assuredAtStart s.launch r q.regime q.ss upper)
    (twoRanges q.regime && (tcrOf r q.regime).epd upper)

/-- Stage 1 enabled: the range check (R190), E0PD (R196), then the TLB or a walk; one range has the open
point of D34 instead (R186).

The range check takes each TnSZ as it is written, in a row of the granule's table or not, and the open point of D7
comes after it, for the range that bit 55 selects alone. A range with a TnSZ of 8 or less, which is in no row of a
stage with two ranges, reaches past bit 55. A VA that only such a range holds and whose bit 55 selects the other
range passes the check, and is walked under the other TnSZ, with no open point and with the IA bits above that size
dropped. All this holds under both systems with every granule; the source is silent on it (R190, R191, R270, R310,
R352, R383, R409, D7; DESIGN CHOICE, log 57). -/
def stage1 (s : State) (r : SysRegs) (force : Bool) (q : Request) : Traced StageOk :=
  let upper := upperRange q.regime q.va
  let t := tcrOf r q.regime
  let va := checkedVa r q.regime q.va
  if twoRanges q.regime then
    if !inLower va t.t0sz.toNat && !inUpper va t.t1sz.toNat then
      Traced.pure (.mmu ⟨.translation, 0, .s1, .outOfRange⟩)
    else if s.launch.featE0pd && isEl0Access s.launch q && t.e0pd upper then
      Traced.pure (.mmu ⟨.translation, 0, .s1, .e0pd⟩)
    else stage1Walk s r force q
  else if !inLower va t.t0sz.toNat then
    walkFrom (envOf s r force q) (stage1Cfg s.launch r q.regime q.ss upper) placeOf va
      (openPoint s .oneRangeVa (stage1Cfg s.launch r q.regime q.ss upper) false va)
  else stage1Walk s r force q

/-! ### The whole translation (R160) -/

/-- The first stage of `Translate`. -/
def firstStage (s : State) (r : SysRegs) (force : Bool) (q : Request) : Traced StageOk :=
  if stage1Disabled s.launch r q.regime q.ss then
    Traced.pure (flatStage1 s.launch r q.regime q.ss q.va q.acc.kind)
  else stage1 s r force q

/-- The access is "a privileged Guarded control stack data access from EL1" (R245). -/
def gcsFromEl1 (q : Request) : Bool :=
  q.acc.gcs && q.acc.privileged && q.el == .el1 && q.acc.kind != .fetch

/-- The second stage of `Translate`, or what stands for it: nothing in a regime without stage 2 and for
`Stage1Only` (R468), the flat map where it is disabled (R430). -/
def secondStage (s : State) (r : SysRegs) (force : Bool) (q : Request) (o : StageOk) : Traced TransOk :=
  if q.stage1Only || !hasStage2 s.launch r q.regime q.ss then
    Traced.pure (.ok { oa := o.oa, space := o.space, isPa := !hasStage2 s.launch r q.regime q.ss, attrs := o.attrs,
                       s1Perms := o.perms, s2Perms := none, s1Level := o.level, s2Level := 0 })
  else if vmEffective s.launch r q.ss then
    (stage2 (envOf s r force q) q.ss (.final o.assured (gcsFromEl1 q)) o.oa o.space).bind fun d =>
      Traced.pure (.ok { oa := d.oa, space := d.space, isPa := true,
                         attrs := Config.combineAttrs o.attrs d.attrs, s1Perms := o.perms,
                         s2Perms := d.perms, s1Level := o.level, s2Level := d.level })
  else
    Traced.pure (.ok { oa := o.oa, space := o.space, isPa := true, attrs := o.attrs, s1Perms := o.perms,
                       s2Perms := none, s1Level := o.level, s2Level := 0 })

/-- `CheckPerms` can give a fault of the stage: "with stage 1 disabled it yields no stage 1 fault; with
stage 2 disabled no stage 2 fault" (R511). -/
def stageChecked (l : Launch) (r : SysRegs) (q : Request) (st : Stage) : Bool :=
  match st with
  | .s1 => !stage1Disabled l r q.regime q.ss
  | .s2 => stage2Enabled l r q.regime q.ss && !q.stage1Only

/-- The permissions a stage gave the result. -/
def TransOk.permsOf (t : TransOk) (st : Stage) : Option Perms :=
  match st with
  | .s1 => t.s1Perms
  | .s2 => t.s2Perms

/-- The verdict of `CheckPerms` can be given: its stage is checked, and an Access flag fault comes of a final
descriptor whose use can give one, which no TLB holds (R210, R505, R511). -/
def verdictStands (l : Launch) (r : SysRegs) (q : Request) (t : TransOk) (v : PermVerdict) : Bool :=
  stageChecked l r q v.stage && (!v.accessFlag || accessFlagMarked l v.stage (t.permsOf v.stage))

/-- What `CheckPerms` is asked: PSTATE.PAN where the access considers it, and nothing else of whether it
does (R455, R468, R511); and not whether the result is returned as a PA, so that a flat-mapped stage 2
changes nothing (R430, R460). -/
def permQuery (s : State) (q : Request) (t : TransOk) : PermQuery :=
  { result := { t with isPa := true }, el := q.el, ss := q.ss, regime := q.regime, acc := { q.acc with usePan := false }
    pan := panConsidered s q.acc }

/-- `CheckPerms`, applied once to a successful result, last (R511, R515(h)). -/
def permCheck (s : State) (r : SysRegs) (q : Request) (t : TransOk) : Res TransOk :=
  if s.launch.checkPermsIdentity || !q.acc.checkPerms then .ok t
  else if !stageChecked s.launch r q .s1 && !stageChecked s.launch r q .s2 then .ok t
  else
    match Config.checkPerms (permQuery s q t) with
    | none => .ok t
    | some v =>
      if verdictStands s.launch r q t v then
        .mmu ⟨if v.accessFlag then .accessFlag else .permission, (v.level.val : Int) - 2, v.stage, .checkPerms⟩
      else .ok t

/-- One pass of `Translate` under one view of the registers. -/
def attempt (s : State) (r : SysRegs) (force : Bool) (q : Request) : Traced TransOk :=
  ((firstStage s r force q).bind (secondStage s r force q)).bind fun t => Traced.pure (permCheck s r q t)

/-- A "TLBUncacheable Fault" (R507). -/
def FaultKind.tlbUncacheable : FaultKind → Bool
  | .translation => true
  | .addressSize => true
  | .accessFlag => true
  | .permission => false
  | .alignment => false

/-- A fault before which FEAT_ETS2 (R100) or FEAT_ETS3 (R101) orders this PE's earlier explicit accesses. -/
def etsFault (l : Launch) (f : MmuFault) : Bool := l.featEts3 || (l.featEts2 && f.kind.tlbUncacheable)

/-- `ATFaultReport(op, f)`: the fault is reported in PAR_EL1 (R479, D12). -/
def atReports (l : Launch) (f : AtForm) (e : MmuFault) : Bool :=
  match l.atFaults with
  | .report => true
  | .exception => false
  | .parameter => Config.atFaultReported f e

/-- An instruction takes the fault: any but a fetch, as "E2 is not generated for an instruction fetch"
(R100), and an AT instruction where the fault generates an exception and is not reported in PAR_EL1
(R479, log 28). -/
def takesFault (l : Launch) (q : Request) (e : MmuFault) : Bool :=
  q.acc.kind != .fetch &&
    match q.form with
    | some f => !atReports l f e
    | none => q.purpose == .explicit

/-- A translation whose result the access it is made for judges: the access may turn the result into an MMU fault
of its own, an Alignment fault (R16, R500, R512). -/
def judged (judge : TransOk → Option MmuFault) (x : Traced TransOk) : Traced TransOk :=
  x.bind fun t =>
    match judge t with
    | none => Traced.pure (.ok t)
    | some f => Traced.pure (.mmu f)

/-- A translation and the judgement of the access it is made for. Where an instruction takes the MMU fault that
comes of the two, both are made with the earlier explicit accesses observed that FEAT_ETS2 and FEAT_ETS3 order
before the descriptor reads (R100, R101). -/
def translateJudged (s : State) (q : Request) (judge : TransOk → Option MmuFault) : Traced TransOk :=
  let r := regsView s q.purpose
  let t := judged judge (attempt s r false q)
  match t.2 with
  | .mmu f =>
    if takesFault s.launch q f && etsFault s.launch f then judged judge (attempt s r true q) else t
  | _ => t

/-- `Translate(ctx, va, acc)` and `Stage1Only` (R160, R468): no access judges its result. -/
def translateAddress (s : State) (q : Request) : Traced TransOk := translateJudged s q fun _ => none

end Sys2Proof.Machine
end

