-- ==== Sys2Proof/Machine/AddressTranslation.lean ====
section
/-! DEFINITION. The seventeen `AT <operation>, <Xt>` instructions: the common semantics once, and each operation
(spec/47_at_instructions.md R450 to R486; 30_encoding.md R131, R137; 60_exceptions.md R520, R525). -/

namespace Sys2Proof.Machine

/-- The optional feature is implemented (R137 (f)). -/
def featureImplemented (l : Launch) (f : AtFeature) : Bool :=
  match f with
  | .always => true
  | .pan2 => l.featPan2
  | .ats1a => l.featAts1a

/-- `minEL`: not lower than `<el>`, nor than the level that controls a stage used (R450, R470, R533). -/
def minEl (f : AtForm) : EL :=
  match f.el with
  | .e3 => .el3
  | .e2 => .el2
  | .e1 => (match f.stages with
    | .s1 => .el1
    | .s12 => .el2)
  | .e0 => (match f.stages with
    | .s1 => .el1
    | .s12 => .el2)

/-- `TargetSS(op)`, `none` for {NSE, NS} = {1, 0} (R471). -/
def targetState (l : Launch) (r : SysRegs) (e : AtEl) : Option SecState :=
  match e with
  | .e3 => some (el3State l)
  | _ => lowerState l r

/-- The Exception level an operation translates as (R450). -/
def atLevel : AtEl → EL
  | .e0 => .el0
  | .e1 => .el1
  | .e2 => .el2
  | .e3 => .el3

/-- "E0, E1: EL1&0; E2: EL2Regime(ss); E3: EL3" (R450). -/
def atRegime (r : SysRegs) (ss : SecState) (e : AtEl) : Regime :=
  match e with
  | .e0 => .el10
  | .e1 => .el10
  | .e2 => el2Regime r ss
  | .e3 => .el3

/-- The access an operation translates for: a data access with no alignment requirement; an operation with
`<ignore>` is a read whose permissions are not checked (R450, R468, R478). -/
def atAccess (f : AtForm) : Access :=
  { kind := (match f.access with
      | .write _ => .write
      | .read _ => .read
      | .ignore => .read)
    privileged := f.el != .e0
    gcs := false
    usePan := f.pan
    checkPerms := (match f.access with
      | .ignore => false
      | .read _ => true
      | .write _ => true) }

/-- The translation an operation asks for (R450). -/
def atRequest (r : SysRegs) (ss : SecState) (f : AtForm) (va : Word) : Request :=
  { el := atLevel f.el, ss := ss, regime := atRegime r ss f.el, va := va, acc := atAccess f
    stage1Only := f.stages == .s1, purpose := .atInstr, form := some f }

/-- The format of PAR_EL1 for a translation system (R472, R473). -/
def formatOf (sys : System) : ParFormat :=
  match sys with
  | .vmsav8 => .bits64
  | .vmsav9 => .bits128

/-- `PARFormat(op)` (R472, R473). -/
def parFormat (l : Launch) (r : SysRegs) (ss : SecState) (f : AtForm) : ParFormat :=
  match f.stages with
  | .s1 => formatOf (system1 r (atRegime r ss f.el))
  | .s12 =>
    if stage2Enabled l r (atRegime r ss f.el) ss then formatOf r.unnamed.sysStage2
    else formatOf (system1 r (atRegime r ss f.el))

/-- The attributes PAR_EL1 returns: "the results of AT* instructions reflect whether the translation is
Tagged" only with FEAT_MTE2 (R475, R485). -/
def parAttrs (l : Launch) (a : Attrs) : Attrs :=
  match a with
  | .normal i o sh tg xs => .normal i o sh (if l.featMte2 then tg else none) xs
  | .label b => .label b
  | .deviceNGnRnE xs => .deviceNGnRnE xs

/-- PAR_EL1 after a successful translation: F is 0, PA the whole OA (R475). -/
def parOfResult (l : Launch) (fmt : ParFormat) (t : TransOk) : Par :=
  ⟨fmt, .result (BitVec.ofNat 56 t.oa) t.space (parAttrs l t.attrs)⟩

/-- PAR_EL1 after a reported fault: F is 1, the information any value (R479, D12). -/
def parOfFault (draws : Nat) (f : AtForm) (fmt : ParFormat) (e : MmuFault) : Par :=
  ⟨fmt, .report (Config.parFaultInfo draws f e)⟩

/-- An AT instruction ends with PAR_EL1 written: no general register, flag or memory location is, and the
next instruction is at the following word (R450). -/
def atComplete (s : State) (p : Par) : Host.Outcome State Fault Refusal :=
  .next (s.writePar p).advancePc.bumpDraws

/-- The end of an AT instruction (R450, R475, R479). -/
def atFinish (s : State) (f : AtForm) (fmt : ParFormat) (x : Res TransOk) : Host.Outcome State Fault Refusal :=
  match x with
  | .ok t => atComplete s (parOfResult s.launch fmt t)
  | .mmu e =>
    if atReports s.launch f e then atComplete s (parOfFault s.draws f fmt e) else takeMmuException e
  | .stop e => .fault e
  | .refuse e => .refused e

/-- The UNDEFINED conditions once the target state is known (R480, R482). -/
def el2Missing (l : Launch) (r : SysRegs) (ss : SecState) (f : AtForm) : Bool :=
  f.el == .e2 && !el2Enabled l r ss

/-- The operation an S12 operation behaves as: itself, or the equivalent S1 operation where EL2 is disabled
or not implemented for the target Security state (R481). -/
def equivalentForm (l : Launch) (r : SysRegs) (ss : SecState) (f : AtForm) : AtForm :=
  if el2Enabled l r ss then f else { f with stages := .s1 }

/-- The translation and its report, for an operation that is not UNDEFINED (R450); the descriptors it read are
recorded (R93). -/
def atTranslate (f : AtForm) (r : SysRegs) (ss : SecState) (va : Word) (s : State) :
    Host.Outcome State Fault Refusal :=
  let x := translateAddress s (atRequest r ss f va)
  atFinish (s.noteWalk x.1) f (parFormat s.launch r ss f) x.2

/-- `AT(op, t)`: the common semantics (R450). -/
def execAt (f : AtForm) (t : XReg) (s : State) : Host.Outcome State Fault Refusal :=
  let r := regsView s .atInstr
  if !featureImplemented s.launch f.feature then undefinedInstruction
  else if s.el.toNat < (minEl f).toNat then undefinedInstruction
  else
    match targetState s.launch r f.el with
    | none => undefinedInstruction
    | some ss =>
      if el2Missing s.launch r ss f then undefinedInstruction
      else atTranslate (equivalentForm s.launch r ss f) r ss (readXt s t) s

/-! ### The operations (R451 to R467) -/

/-- `AT S1E1R, <Xt>` (R451): stage 1 of EL1&0 as a privileged data read, PSTATE.PAN not considered. -/
def execAtS1E1R (t : XReg) (s : State) : Host.Outcome State Fault Refusal :=
  execAt ⟨.s1, .e1, .read false⟩ t s

/-- `AT S1E1W, <Xt>` (R452): stage 1 of EL1&0 as a privileged data write. -/
def execAtS1E1W (t : XReg) (s : State) : Host.Outcome State Fault Refusal :=
  execAt ⟨.s1, .e1, .write false⟩ t s

/-- `AT S1E0R, <Xt>` (R453): stage 1 of EL1&0 as an unprivileged data read. -/
def execAtS1E0R (t : XReg) (s : State) : Host.Outcome State Fault Refusal :=
  execAt ⟨.s1, .e0, .read false⟩ t s

/-- `AT S1E0W, <Xt>` (R454): stage 1 of EL1&0 as an unprivileged data write. -/
def execAtS1E0W (t : XReg) (s : State) : Host.Outcome State Fault Refusal :=
  execAt ⟨.s1, .e0, .write false⟩ t s

/-- `AT S1E1RP, <Xt>` (R455): as S1E1R with PSTATE.PAN considered; with FEAT_PAN2 only. -/
def execAtS1E1RP (t : XReg) (s : State) : Host.Outcome State Fault Refusal :=
  execAt ⟨.s1, .e1, .read true⟩ t s

/-- `AT S1E1WP, <Xt>` (R456): as S1E1W with PSTATE.PAN considered; with FEAT_PAN2 only. -/
def execAtS1E1WP (t : XReg) (s : State) : Host.Outcome State Fault Refusal :=
  execAt ⟨.s1, .e1, .write true⟩ t s

/-- `AT S1E1A, <Xt>` (R457): stage 1 of EL1&0 from EL1, permission checks ignored; with FEAT_ATS1A only. -/
def execAtS1E1A (t : XReg) (s : State) : Host.Outcome State Fault Refusal :=
  execAt ⟨.s1, .e1, .ignore⟩ t s

/-- `AT S1E2R, <Xt>` (R458): stage 1 of the regime that serves EL2, a data read; EL2 must be enabled. -/
def execAtS1E2R (t : XReg) (s : State) : Host.Outcome State Fault Refusal :=
  execAt ⟨.s1, .e2, .read false⟩ t s

/-- `AT S1E2W, <Xt>` (R459): as S1E2R with a data write. -/
def execAtS1E2W (t : XReg) (s : State) : Host.Outcome State Fault Refusal :=
  execAt ⟨.s1, .e2, .write false⟩ t s

/-- `AT S12E1R, <Xt>` (R460): stage 1 then stage 2 of EL1&0 as a privileged data read. -/
def execAtS12E1R (t : XReg) (s : State) : Host.Outcome State Fault Refusal :=
  execAt ⟨.s12, .e1, .read false⟩ t s

/-- `AT S12E1W, <Xt>` (R461): stage 1 then stage 2 of EL1&0 as a privileged data write. -/
def execAtS12E1W (t : XReg) (s : State) : Host.Outcome State Fault Refusal :=
  execAt ⟨.s12, .e1, .write false⟩ t s

/-- `AT S12E0R, <Xt>` (R462): stage 1 then stage 2 of EL1&0 as an unprivileged data read. -/
def execAtS12E0R (t : XReg) (s : State) : Host.Outcome State Fault Refusal :=
  execAt ⟨.s12, .e0, .read false⟩ t s

/-- `AT S12E0W, <Xt>` (R463): stage 1 then stage 2 of EL1&0 as an unprivileged data write. -/
def execAtS12E0W (t : XReg) (s : State) : Host.Outcome State Fault Refusal :=
  execAt ⟨.s12, .e0, .write false⟩ t s

/-- `AT S1E2A, <Xt>` (R464): as S1E2R with permission checks ignored; with FEAT_ATS1A only. -/
def execAtS1E2A (t : XReg) (s : State) : Host.Outcome State Fault Refusal :=
  execAt ⟨.s1, .e2, .ignore⟩ t s

/-- `AT S1E3R, <Xt>` (R465): stage 1 of the EL3 regime, a data read. -/
def execAtS1E3R (t : XReg) (s : State) : Host.Outcome State Fault Refusal :=
  execAt ⟨.s1, .e3, .read false⟩ t s

/-- `AT S1E3W, <Xt>` (R466): as S1E3R with a data write. -/
def execAtS1E3W (t : XReg) (s : State) : Host.Outcome State Fault Refusal :=
  execAt ⟨.s1, .e3, .write false⟩ t s

/-- `AT S1E3A, <Xt>` (R467): as S1E3R with permission checks ignored; with FEAT_ATS1A only. -/
def execAtS1E3A (t : XReg) (s : State) : Host.Outcome State Fault Refusal :=
  execAt ⟨.s1, .e3, .ignore⟩ t s

end Sys2Proof.Machine
end

