-- ==== Sys2Proof/Machine/Dispatch.lean ====
section
/-! DEFINITION. The dispatch of instructions to their meanings, one arm for each constructor of Instr. -/

namespace Sys2Proof.Machine

def exec (i : Instr) (s : State) : Host.Outcome State Fault Refusal :=
  match i with
  | .atS1E1R t => Sys2Proof.Machine.execAtS1E1R t s
  | .atS1E1W t => Sys2Proof.Machine.execAtS1E1W t s
  | .atS1E0R t => Sys2Proof.Machine.execAtS1E0R t s
  | .atS1E0W t => Sys2Proof.Machine.execAtS1E0W t s
  | .atS1E1RP t => Sys2Proof.Machine.execAtS1E1RP t s
  | .atS1E1WP t => Sys2Proof.Machine.execAtS1E1WP t s
  | .atS1E1A t => Sys2Proof.Machine.execAtS1E1A t s
  | .atS1E2R t => Sys2Proof.Machine.execAtS1E2R t s
  | .atS1E2W t => Sys2Proof.Machine.execAtS1E2W t s
  | .atS12E1R t => Sys2Proof.Machine.execAtS12E1R t s
  | .atS12E1W t => Sys2Proof.Machine.execAtS12E1W t s
  | .atS12E0R t => Sys2Proof.Machine.execAtS12E0R t s
  | .atS12E0W t => Sys2Proof.Machine.execAtS12E0W t s
  | .atS1E2A t => Sys2Proof.Machine.execAtS1E2A t s
  | .atS1E3R t => Sys2Proof.Machine.execAtS1E3R t s
  | .atS1E3W t => Sys2Proof.Machine.execAtS1E3W t s
  | .atS1E3A t => Sys2Proof.Machine.execAtS1E3A t s

end Sys2Proof.Machine
end

