-- ==== Sys2Proof/Machine/Environment.lean ====
section
/-! DEFINITION. What happens between two AT instructions: explicit accesses, barriers, direct writes, RCW and RCWS
updates, TLB fills and evictions, branches, context changes (spec/20_memory.md R95 to R121; 41_hardening.md R226 to
R235; 46_disabled_stages.md R433 to R437; 70_reset_and_hazards.md R570 to R577; 10_state.md R70). -/

namespace Sys2Proof.Machine

/-! ### Requests of the current context (R24, R532) -/

/-- The request an access of the current context makes; `none` where there is no Security state (R37). -/
def contextRequest (s : State) (r : SysRegs) (acc : Access) (va : Word) (purpose : Purpose) : Option Request :=
  match stateAt s.launch r s.el with
  | none => none
  | some ss =>
    some { el := s.el, ss := ss, regime := regimeOf r ss s.el, va := va, acc := acc
           stage1Only := false, purpose := purpose, form := none }

/-- A data access as an explicit access makes it; an access made at EL0 is unprivileged (R24). Whether it considers
PSTATE.PAN is an input of the access, on which the source is silent (R52; DESIGN CHOICE, log 68). -/
def dataAccess (s : State) (a : ExplicitAccess) (kind : AccessKind) : Access :=
  { kind := kind, privileged := a.privileged && s.el != .el0, gcs := a.gcs, usePan := a.usePan
    checkPerms := true }

/-- An instruction fetch of the current context (R24). It does not consider PSTATE.PAN, on which the source is silent
(R52; DESIGN CHOICE, log 68). -/
def fetchAccess (s : State) : Access :=
  { kind := .fetch, privileged := s.el != .el0, gcs := false, usePan := false, checkPerms := true }

/-- The answer of a translation: its result or its fault record, which an embedding PE model delivers
(R500, R525); what it read is recorded. -/
def answerTranslation (s : State) (x : Traced TransOk) : Host.Outcome State Fault Refusal :=
  match x.2 with
  | .ok t => .next ((s.noteWalk x.1).answer (.translation (.ok t)))
  | .mmu f => .next ((s.noteWalk x.1).answer (.translation (.fault f)))
  | .stop f => .fault f
  | .refuse f => .refused f

/-- Translate an address as an access of the current context. -/
def doTranslate (s : State) (acc : Access) (va : Word) (purpose : Purpose) :
    Host.Outcome State Fault Refusal :=
  match contextRequest s (regsView s purpose) acc va purpose with
  | none => .refused .noSecurityState
  | some q => answerTranslation s (translateAddress s q)

/-! ### Explicit accesses (R13, R84, R95, R512) -/

/-- The size of an explicit access in bytes. -/
def ExplicitAccess.bytes (a : ExplicitAccess) : Nat := 2 ^ a.size.val

/-- The access is aligned: its VA is a multiple of its whole size. Which explicit accesses are misaligned is not in
the source (N26); that these alone are aligned, and that an aligned one gives no Alignment fault, is the model's
choice (R512; DESIGN CHOICE, log 48). -/
def ExplicitAccess.aligned (a : ExplicitAccess) : Bool := a.va.toNat % a.bytes == 0

/-- What an explicit access does at its place: read, or write these bytes. -/
inductive AccessData where
  | load
  | store (bs : List Byte)
  deriving DecidableEq, Repr, Inhabited

/-- The kind of access (R24). -/
def AccessData.kind : AccessData → AccessKind
  | .load => .read
  | .store _ => .write

/-- A part of an access that is made at one place: its first byte's number in the access and key, its size, and
the attributes its translation gave. -/
structure AccessPart where
  offset : Nat
  key : Nat
  bytes : Nat
  attrs : Attrs
  deriving DecidableEq, Repr, Inhabited

/-- The record of an Alignment fault of an access: it "belongs to the access, not to the translation" (R512);
its level and stage are the model's choice (DESIGN CHOICE, log 48). -/
def alignmentFault : MmuFault := ⟨.alignment, 0, .s1, .alignment⟩

/-- The Alignment fault a misaligned access may give, judged "from the access size and the memory type of the
result" by a free function (R421, R512, U10). -/
def ExplicitAccess.judge (a : ExplicitAccess) (s : State) (kind : AccessKind) (t : TransOk) : Option MmuFault :=
  if !a.aligned && Config.alignmentFault s.draws t.attrs a.va a.bytes kind then some alignmentFault else none

/-- The place of a part that a translation gave: it must exist, and no walk may have read it with other
attributes (R93, R579, D16). -/
def partPlace (s : State) (x : Traced TransOk) (o n : Nat) : Traced AccessPart :=
  x.bind fun t =>
    Traced.pure
      (if !physExists s.launch t.space t.oa n then .stop (.noSuchAddress t.space t.oa)
       else if tableMismatch (s.noteWalk x.1).tableReads (memKey t.space t.oa) n t.attrs then
         .refuse .mismatchedAttributes
       else .ok ⟨o, memKey t.space t.oa, n, t.attrs⟩)

/-- Translate the address of `n` bytes of an access from its byte `o` on. The address wraps past 2^64 - 1, on
which the source is silent (DESIGN CHOICE, log 48). -/
def accessPart (s : State) (a : ExplicitAccess) (kind : AccessKind) (o n : Nat) : Traced AccessPart :=
  match contextRequest s (regsView s .explicit) (dataAccess s a kind) (a.va + BitVec.ofNat 64 o) .explicit with
  | none => Traced.pure (.refuse .noSecurityState)
  | some q => partPlace s (translateJudged s q (a.judge s kind)) o n

/-- What an access in progress has done: the walks' lookups, and its parts. -/
structure Progress where
  notes : List LookupNote
  parts : List AccessPart
  deriving DecidableEq, Repr

/-- A part of an access is made: the access is recorded; what a read returned is ordered (R100), and a written
part is one write, pending until a DSB (R95, R96). -/
def State.makePart (s : State) (simd : Bool) (data : AccessData) (p : AccessPart) : State :=
  match data with
  | .load => (s.noteRead p.key p.bytes simd).noteSoft p.key p.bytes p.attrs false
  | .store bs =>
    (s.noteSoft p.key p.bytes p.attrs true).addWrite
      { cells := cellsFrom p.key ((bs.drop p.offset).take p.bytes), reduced := false, own := true, simd := simd
        readBack := false, settled := false }

/-- The state with what an access did. -/
def State.makeParts (s : State) (simd : Bool) (data : AccessData) (m : Progress) : State :=
  m.parts.foldl (fun s p => s.makePart simd data p) (s.noteWalk m.notes)

/-- The parts of an access, each its first byte's number and its size: one for an aligned access. A misaligned one
is an access to each of its bytes, in a free order: the source does not say what it does (N26; DESIGN CHOICE, log
48). -/
def accessPieces (s : State) (a : ExplicitAccess) : List (Nat × Nat) :=
  if a.aligned then [(0, a.bytes)]
  else reorder ((List.range a.bytes).map fun o => (o, 1)) (Config.choose s.draws .byteOrder)

/-- Make the parts of an access one after another. The walk of a part may observe what the parts before it wrote
or not (R95); that is not ordered before it by FEAT_ETS2 and FEAT_ETS3, as a write by a SIMD instruction is not:
the parts are of one instruction, and these features order one before a later one (R100). All parts read the
registers in one view (R99; DESIGN CHOICE, log 25). A part that faults is not made, nor are those after it, and
those before it stay made: which fault is reported, and which bytes are written before it, depends on the free
order of the parts alone (R84, N38; DESIGN CHOICE, log 48). -/
def accessLoop (s : State) (a : ExplicitAccess) (data : AccessData) :
    List (Nat × Nat) → Progress → Progress × Res Unit
  | [], m => (m, .ok ())
  | (o, n) :: rest, m =>
    let x := accessPart (s.makeParts true data m) a data.kind o n
    let notes := m.notes ++ x.1
    match x.2 with
    | .ok p => accessLoop s a data rest ⟨notes, m.parts ++ [p]⟩
    | .mmu f => (⟨notes, m.parts⟩, .mmu f)
    | .stop f => (⟨notes, m.parts⟩, .stop f)
    | .refuse f => (⟨notes, m.parts⟩, .refuse f)

/-- An explicit access: its answer, or its fault record, which an embedding PE model delivers (R500, R525). -/
def doAccess (s : State) (a : ExplicitAccess) (data : AccessData) (answer : List AccessPart → Output) :
    Host.Outcome State Fault Refusal :=
  let x := accessLoop s a data (accessPieces s a) ⟨[], []⟩
  match x.2 with
  | .ok _ => .next ((s.makeParts a.simd data x.1).answer (answer x.1.parts))
  | .mmu f => .next ((s.makeParts a.simd data x.1).answer (.translation (.fault f)))
  | .stop f => .fault f
  | .refuse f => .refused f

/-- The value that the parts of a read returned: the coherent bytes, little-endian (D20). -/
def loadedValue (s : State) (ps : List AccessPart) : Nat :=
  (ps.map fun p => littleEndian (coherentBytes s p.key p.bytes) * 256 ^ p.offset).sum

/-- `MemRead` (R13). -/
def doRead (s : State) (a : ExplicitAccess) : Host.Outcome State Fault Refusal :=
  doAccess s a .load fun ps => .loaded (BitVec.ofNat 128 (loadedValue s ps))

/-- `MemWrite` (R13). -/
def doWrite (s : State) (a : ExplicitAccess) (v : BitVec 128) : Host.Outcome State Fault Refusal :=
  doAccess s a (.store (bytesOfValue a.bytes v.toNat)) fun _ => .none

/-- A write by another agent (R545), of Reduced Coherence where it is another PE's RCWS with PTTWI 1 (R113): the
event says so, since that PE is outside the machine, whatever features and PTTWI bits this PE has (DESIGN CHOICE, log
27). The walks of a regime whose PTTWI is read-only 0 on this PE cannot ignore it (R117). -/
def doOtherWrite (s : State) (sp : Space) (pa : PAddr) (bytes : List Byte) (reduced : Bool) :
    Host.Outcome State Fault Refusal :=
  if physExists s.launch sp pa.toNat bytes.length then
    .next ((s.addWrite
      { cells := cellsFrom (memKey sp pa.toNat) bytes, reduced := reduced, own := false, simd := false
        readBack := false, settled := false }).answer .none)
  else .fault (.noSuchAddress sp pa.toNat)

/-! ### Barriers and system registers (R96 to R103, R573, R577) -/

/-- The writes of other agents, which their barrier orders. -/
def PendingWrite.others (w : PendingWrite) : Bool := !w.own

/-- The write, settled where the barrier orders it. -/
def PendingWrite.settleBy (ord : PendingWrite → Bool) (w : PendingWrite) : PendingWrite :=
  { w with settled := w.settled || ord w }

/-- The writes that satisfy `ord` are ordered before all reads to come: what these observe for certain goes
into memory, and what they may still observe or not goes on waiting: of the Reduced Coherence writes to a
location the last one alone (R96, R115), settled for the walks that R115 does not apply to (R117). -/
def State.settle (s : State) (ord : PendingWrite → Bool) : State :=
  { s with
    mem := commitWrites s.mem (orderedPart ord s.pendingWrites)
    pendingWrites :=
      ((openPart ord s.pendingWrites).filter fun w => !w.cells.isEmpty).map (PendingWrite.settleBy ord) }

/-- A Context synchronization event (R99, R577). -/
def State.sync (s : State) : State := { s with regs := syncedRegs s, pendingRegs := [], parStale := [] }

/-- A direct write of a system register (R99). Any register may be written at every Exception level, and is held also
where the PE has not the Exception level or the feature it belongs to (SCR_EL3 without EL3, R37): the source gives no
access Exception level and no outcome of such a write (R25, R530; DESIGN CHOICE, log 66). -/
def State.directWrite (s : State) (w : SysWrite) : State := { s with pendingRegs := s.pendingRegs ++ [w] }

/-! ### RCW and RCWS updates (R113 to R118, R226 to R235) -/

/-- The value of PTTWI an RCWS write uses: the regime's, or one a TLB entry of the regime has cached
(R113, R114, R117, R118). -/
def pttwiUsed (s : State) (r : SysRegs) (g : Regime) (ss : SecState) : Bool :=
  pttwiWritable s.launch r g ss &&
    pick s.draws .pttwi (pttwiOf s.launch r g ss)
      ((s.tlb.filter fun t => t.cfg.stage == .s1 && t.cfg.regime == g && t.cfg.ss == ss).map (·.cfg.pttwi))

/-- The bytes of a descriptor: 8, or 16 for a VMSAv9-128 one (R81). -/
def rcwBytes (wide : Bool) : Nat := if wide then 16 else 8

/-- The old value an update reads, in the byte order of the regime's descriptors. -/
def rcwOld (s : State) (ee wide : Bool) (k : Nat) : Raw :=
  BitVec.ofNat 128 (valueOfBytes ee (coherentBytes s k (rcwBytes wide)))

/-- The new value, cut to the size of the descriptor. -/
def rcwNew (wide : Bool) (new : Raw) : Raw := if wide then new else BitVec.ofNat 128 (new.toNat % 2 ^ 64)

/-- The update may be made (R226). -/
def rcwAllowed (s : State) (r : SysRegs) (g : Regime) (sw wide : Bool) (old new : Raw) : Bool :=
  if sw then rcwsMayUpdate (rcwCheckOf s.launch r g wide old new)
  else rcwMayUpdate (rcwCheckOf s.launch r g wide old new)

/-- An RCW or RCWS instruction that would replace a descriptor: "When the function is false memory keeps
`old`" (R226); the regime is that of the executing context (R235). It is an access of software to the tables
(R93). It executes at every Exception level, EL0 among them: the source does not say at which it may (R235, R530, N33;
DESIGN CHOICE, log 49). -/
def doRcw (s : State) (sw wide : Bool) (sp : Space) (slot : Nat) (new : Raw) (attrs : Attrs) :
    Host.Outcome State Fault Refusal :=
  if !s.launch.featThe then undefinedInstruction
  else
    let r := regsView s .explicit
    match stateAt s.launch r s.el with
    | none => .refused .noSecurityState
    | some ss =>
      let g := regimeOf r ss s.el
      let n := rcwBytes wide
      let k := memKey sp (slot * n)
      let read := (s.noteRead k n false).noteSoft k n attrs
      if !physExists s.launch sp (slot * n) n then .fault (.noSuchAddress sp (slot * n))
      else if tableMismatch s.tableReads k n attrs then .refused .mismatchedAttributes
      else if rcwAllowed s r g sw wide (rcwOld s (sctlrOf r g).ee wide k) (rcwNew wide new) then
        .next (((read true).addWrite
          { cells := cellsFrom k (bytesOfDesc (sctlrOf r g).ee n (rcwNew wide new).toNat)
            reduced := sw && pttwiUsed s r g ss, own := true, simd := false
            readBack := false, settled := false }).answer (.rcwUpdated true))
      else .next ((read false).answer (.rcwUpdated false))

/-! ### The TLB (R70, D10) -/

/-- The elements whose number is in `keep`. -/
def keepBits {α : Type} : List α → Nat → List α
  | [], _ => []
  | x :: xs, keep => if keep.testBit 0 then x :: keepBits xs (keep / 2) else keepBits xs (keep / 2)

/-- The list without its element number `n`. -/
def dropAt {α : Type} : List α → Nat → List α
  | [], _ => []
  | _ :: xs, 0 => xs
  | x :: xs, n + 1 => x :: dropAt xs n

/-- The Exception level whose accesses a TLB fill of a regime stands for. -/
def fillLevel (g : Regime) (privileged : Bool) : EL :=
  match g with
  | .el10 => if privileged then .el1 else .el0
  | .el20 => if privileged then .el2 else .el0
  | .el2 => .el2
  | .el3 => .el3

/-- The TLB gains entries of a walk of a regime: of any regime at any Exception level, one of EL2 or EL3 also where
that level is not implemented, and in the Security state of the regime that SCR_EL3 selects now, on which the source
is silent (R70; DESIGN CHOICE, log 23). They are those the walk's lookups left,
none of a descriptor whose use gives a TLB-uncacheable fault (R70, R210, R507, D10). A walk that faults leaves
entries too. Where the walk is refused, for mismatched attributes among others (R579), or stops, so does the
event. -/
def doFill (s : State) (acc : Access) (g : Regime) (va : Word) (keep : Nat) : Host.Outcome State Fault Refusal :=
  let r := regsView s .speculative
  match (match g with
    | .el3 => some (el3State s.launch)
    | _ => lowerState s.launch r) with
  | none => .refused .noSecurityState
  | some ss =>
    let x := translateAddress s
      { el := fillLevel g acc.privileged, ss := ss, regime := g, va := va, acc := acc, stage1Only := false
        purpose := .speculative, form := none }
    let filled := { s.noteWalk x.1 with tlb := keepBits (tlbEntries x.1) keep ++ s.tlb }.answer .none
    match x.2 with
    | .ok _ => .next filled
    | .mmu _ => .next filled
    | .stop f => .fault f
    | .refuse f => .refused f

/-! ### Instruction fetch with all stages disabled (R433, R434) -/

/-- All associated address translation stages of the current context are disabled. -/
def allStagesDisabled (l : Launch) (r : SysRegs) (g : Regime) (ss : SecState) : Bool :=
  stage1Disabled l r g ss && !stage2Enabled l r g ss

/-- `MayFetch` (R433): instruction addresses are compared as they are, with no space, and with bits [63:56] under
`TopByteIgnore` too, so that another tag of an address within the bound is outside it (DESIGN CHOICE, log 60). -/
def mayFetch (s : State) (va : Nat) : Bool :=
  let here := regionOf s.launch s.pc.toNat
  (here :: s.executed).any (fun x => regionOf s.launch va == x || regionOf s.launch va == x + 1) ||
    s.branches.any (fun b => b.2 == va)

/-- A speculative instruction fetch: with all stages disabled only within the bound (R433, R434, U15). It is its
translation alone, and no "later" fetch of D27: one of bytes the program wrote is not refused (R121; DESIGN
CHOICE, log 47). -/
def doSpeculativeFetch (s : State) (va : Word) : Host.Outcome State Fault Refusal :=
  match contextRequest s (regsView s .speculative) (fetchAccess s) va .speculative with
  | none => .refused .noSecurityState
  | some q =>
    if allStagesDisabled s.launch (regsView s .speculative) q.regime q.ss && !mayFetch s va.toNat then
      .refused .fetchBeyondBound
    else answerTranslation s (translateAddress s q)

/-- The byte address of word number `target`. -/
def wordAddress (target : BitVec 62) : Word := target ++ 0#2

/-- A direct branch taken in simple sequential execution (R433). -/
def State.branch (s : State) (target : BitVec 62) : State :=
  { s.noteExecuted with
    branches := (s.pc.toNat, (wordAddress target).toNat) :: s.branches, pc := wordAddress target }

/-- Instruction cache maintenance targeting an instruction address is synchronized (R433). -/
def State.forgetBranches (s : State) (va : Word) : State :=
  { s with branches := s.branches.filter fun b => b.1 != va.toNat }

/-! ### Contexts (R24, R530) -/

/-- The PE has this Exception level (R530): EL2 where it is implemented, enabled in the Security state or not (DESIGN
CHOICE, log 56). -/
def levelExists (l : Launch) (el : EL) : Bool :=
  match el with
  | .el0 => true
  | .el1 => true
  | .el2 => l.haveEl2
  | .el3 => l.haveEl3

/-- The PE's context changes (R24). That this synchronizes nothing is the model's choice: whether a change of
Exception level is a Context synchronization event is not in the source (R103; DESIGN CHOICE, log 64). EL2 is
entered also in a Security state where it is implemented and disabled: how a level is entered is not in the source
(R530; DESIGN CHOICE, log 56). -/
def doContext (s : State) (el : EL) (pan : Bool) : Host.Outcome State Fault Refusal :=
  if levelExists s.launch el then .next ({ s with el := el, pan := pan }.answer .none)
  else .refused .noSuchContext

/-- Another instruction writes a general register (D2). -/
def State.setX (s : State) (t : Fin 31) (v : Word) : State := { s with xs := s.xs.set t v }

/-! ### Events -/

/-- What one event does. Cache maintenance by address is translated as an explicit access, so FEAT_ETS2 and
FEAT_ETS3 order its faulting walk as they do a load's: the source does not say so (DESIGN CHOICE, log 28). It does
not consider PSTATE.PAN, which the source leaves open (R52; DESIGN CHOICE, log 68). -/
def applyEvent (s : State) (ev : Event) : Host.Outcome State Fault Refusal :=
  match ev with
  | .translate acc va => doTranslate s acc va .explicit
  | .memRead a => doRead s a
  | .memWrite a v => doWrite s a v
  | .otherWrite sp pa bytes reduced => doOtherWrite s sp pa bytes reduced
  | .otherDsb => .next ((s.settle PendingWrite.others).answer .none)
  | .dsb => .next ((s.settle PendingWrite.own).answer .none)
  | .isb => .next (s.sync.answer .none)
  | .directWrite w => .next ((s.directWrite w).answer .none)
  | .readPar => .next (s.answer (.parValue (pick s.draws .parRead s.par s.parStale)))
  | .rcw sw wide sp slot new attrs => doRcw s sw wide sp slot new attrs
  | .tlbFill acc g va keep => doFill s acc g va keep
  | .tlbEvict n => .next ({ s with tlb := dropAt s.tlb n }.answer .none)
  | .directBranch target => .next ((s.branch target).answer .none)
  | .icacheSync va => .next ((s.forgetBranches va).answer .none)
  | .speculativeFetch va => doSpeculativeFetch s va
  | .cacheMaintenance va =>
    doTranslate s
      { kind := .read, privileged := s.el != .el0, gcs := false, usePan := false, checkPerms := true } va
      .explicit
  | .context el pan => doContext s el pan
  | .writeX t v => .next ((s.setX t v).answer .none)

end Sys2Proof.Machine
end

