-- ==== Sys2Proof/Machine/Fetch.lean ====
section
/-! DEFINITION. Fetching an instruction: the place of the word at the program counter and its four bytes
(spec/10_state.md R23, R61; 20_memory.md R121; 30_encoding.md R134; 93_implementation_defined.md G2). -/

namespace Sys2Proof.Machine

/-- Where a word at an instruction address is fetched from: the address is translated like any access
(R23, R121). An address that is no multiple of 4 is fetched from too, four bytes in a row of PA space from its
translation on, and nothing checks its alignment, which the source leaves open (R134, N40; DESIGN CHOICE, log
10). -/
def fetchPlace (s : State) (va : Word) : Traced (Space × Nat) :=
  match contextRequest s (regsView s .fetch) (fetchAccess s) va .fetch with
  | none => Traced.pure (.refuse .noSecurityState)
  | some q =>
    (translateAddress s q).bind fun t =>
      Traced.pure
        (if physExists s.launch t.space t.oa 4 then .ok (t.space, t.oa)
         else .stop (.noSuchAddress t.space t.oa))

/-- The four bytes at a place: what is fetched of a location this PE's program wrote is refused (R121, D27). -/
def bytesAt (s : State) (at_ : Space × Nat) : Res (List Byte) :=
  let k := memKey at_.1 at_.2
  if softWrote s.softAccesses k 4 then .refuse .selfModifying
  else
    let ws := s.pendingWrites.filter fun w => w.overlaps k 4
    .ok (observedBytes s.mem ws (chooseMask s.draws (.fetch at_.2) ws) k 4)

/-- The bytes of the next instruction. A fetch is no access of software to table memory: its attributes are not
held against the lookups', on which R93 is silent (DESIGN CHOICE, log 46). -/
def fetchBytes (s : State) : Traced (List Byte) :=
  (fetchPlace s s.pc).bind fun at_ => Traced.pure (bytesAt s at_)

/-- Store bytes in memory from a key on. -/
def storeBytes (m : List Host.Cell) (k : Nat) (bs : List Byte) : List Host.Cell :=
  memWriteCells m (cellsFrom k bs)

/-- The state with four bytes at a key, no write to them pending and none of software's recorded. -/
def State.placeWord (s : State) (k : Nat) (bs : List Byte) : State :=
  { s with
    mem := storeBytes s.mem k bs
    pendingWrites := s.pendingWrites.filter fun w => !w.overlaps k 4
    softAccesses := s.softAccesses.filter fun a => !a.overlaps k 4 }

end Sys2Proof.Machine
end

