-- ==== Sys2Proof/Machine/Step.lean ====
section
/-! DEFINITION. One step of the machine: the next event of the environment, or the instruction at the program
counter; and the state whose next step runs a given word (spec/60_exceptions.md R526; 10_state.md R61). -/

namespace Sys2Proof.Machine

/-- Run the instruction whose bytes were fetched, in the state with its region recorded as executed (R433) and the
descriptors its fetch read recorded (R93). -/
def runBytes (s : State) (notes : List LookupNote) (bs : List Byte) : Host.Outcome State Fault Refusal :=
  match decodeBytes bs with
  | .ok (i, _) => exec i (s.noteExecuted.noteWalk notes)
  | .error e => .refused (.notAt e)

/-- Fetch, decode and run one instruction. -/
def stepInstr (s : State) : Host.Outcome State Fault Refusal :=
  match (fetchBytes s).2 with
  | .ok bs => runBytes s (fetchBytes s).1 bs
  | .mmu f => takeMmuException f
  | .stop f => .fault f
  | .refuse f => .refused f

/-- One step. -/
def step (s : State) : Host.Outcome State Fault Refusal :=
  match s.inputs with
  | ev :: rest => applyEvent { s with inputs := rest, draws := s.draws + 1 } ev
  | [] => stepInstr s

/-- The state with an instruction stored where the next step fetches: no event stands before it. -/
def State.withFetchWord (s : State) (nbits w : Nat) : State :=
  let s' := { s with inputs := [] }
  match (fetchPlace s' s'.pc).2 with
  | .ok at_ => s'.placeWord (memKey at_.1 at_.2) (bytesOfWord (BitVec.ofNat 32 (w % 2 ^ nbits)))
  | _ => s'

end Sys2Proof.Machine
end

