-- ==== Sys2Proof/Safety.lean ====
section
/-! DEFINITION. What the claims speak of: the UNDEFINED condition, machines without an open hazard window, which memory
a Security state can see, what every step keeps, and what software owes the walk (spec/30_encoding.md R137;
70_reset_and_hazards.md R561 to R579; 20_memory.md R104 to R112; 10_state.md R22, R70). -/

namespace Sys2Proof.Machine

/-- The cases of R137 in which an AT instruction is UNDEFINED: its feature is absent, the Exception level
is too low (R470), there is no target Security state (R471), or EL2 is not enabled for it (R480, R482). -/
def UndefinedAt (f : AtForm) (s : State) : Prop :=
  featureImplemented s.launch f.feature = false ∨
  s.el.toNat < (minEl f).toNat ∨
  targetState s.launch (regsView s .atInstr) f.el = none ∨
  ∃ ss, targetState s.launch (regsView s .atInstr) f.el = some ss ∧
    f.el = .e2 ∧ el2Enabled s.launch (regsView s .atInstr) ss = false

/-- The instruction is not UNDEFINED, and its target Security state is `ss`. -/
def ExecutesFor (f : AtForm) (s : State) (ss : SecState) : Prop :=
  featureImplemented s.launch f.feature = true ∧
  (minEl f).toNat ≤ s.el.toNat ∧
  targetState s.launch (regsView s .atInstr) f.el = some ss ∧
  (f.el = .e2 → el2Enabled s.launch (regsView s .atInstr) ss = true)

/-- The state an AT instruction that writes PAR_EL1 leaves (R450). -/
def afterAt (s : State) (p : Par) : State := ((s.writePar p).advancePc).bumpDraws

/-- No hazard window of R570 to R578 is open: no write of a table or of a register waits to be observed,
and the TLB holds nothing that could differ from the tables. -/
def Quiet (s : State) : Prop := s.pendingRegs = [] ∧ s.pendingWrites = [] ∧ s.tlb = []

/-- The launch leaves no open point to a free outcome. -/
def NoFreePoint (l : Launch) : Prop :=
  l.tnszOutOfRange ≠ .free ∧ l.s2InputOutOfRange ≠ .free ∧ l.oneRangeVa ≠ .free

/-- The PA spaces that translations for a Security state may read tables from: its own, and for Secure and
Realm the Non-secure one (R104 to R112). -/
def Visible (ss : SecState) (sp : Space) : Prop :=
  match ss with
  | .nonSecure => sp = .nonSecure
  | .secure => sp = .secure ∨ sp = .nonSecure
  | .realm => sp = .realm ∨ sp = .nonSecure
  | .root => sp = .root

/-- Two memories hold the same bytes in every PA space visible to a Security state. -/
def AgreeOn (ss : SecState) (m m' : List Host.Cell) : Prop :=
  ∀ sp pa, Visible ss sp → pa < 2 ^ 56 → memRead m (memKey sp pa) = memRead m' (memKey sp pa)

/-- The state with another memory. -/
def State.withMem (s : State) (m : List Host.Cell) : State := { s with mem := m }

/-- The outcome with another memory in its next state. -/
def withMemOutcome (m : List Host.Cell) (o : Host.Outcome State Fault Refusal) : Host.Outcome State Fault Refusal :=
  match o with
  | .next s => .next (s.withMem m)
  | .fault f => .fault f
  | .refused r => .refused r

/-- A key names a byte below 2^PAsize of a PA space: of Secure and Non-secure, and with FEAT_RME of Realm and
Root (R21, R22). -/
def KeyExists (l : Launch) (k : Nat) : Prop := k / 2 ^ 56 < (if l.featRme then 4 else 2) ∧ k % 2 ^ 56 < 2 ^ physBits l

/-- A TLB entry is a descriptor of a lookup level that may be cached: its use, for an address it answers,
gives a step of the walk and so no Translation or Address size fault, and no access whatever takes an Access
flag fault from it (R70, R210, R507). -/
def EntryOk (l : Launch) (t : TlbEntry) : Prop :=
  -2 ≤ t.pos.level ∧ t.pos.level ≤ 3 ∧
  ∃ ia x, ia / 2 ^ t.lowBits = t.iaHigh ∧ descStep t.cfg t.pos t.desc t.mro ia = .ok x ∧
    ∀ r, x = .done r → accessFlagMarked l t.cfg.stage r.perms = false

/-- What every step keeps: memory in its canonical form; memory and the pending writes at addresses that
exist; TLB entries that may be cached; the program counter word aligned; the Exception level one the PE
has. -/
structure Inv (s : State) : Prop where
  memory : Memory.wf s.mem = true
  cells : ∀ c ∈ s.mem, KeyExists s.launch c.1
  pending : ∀ w ∈ s.pendingWrites, ∀ c ∈ w.cells, KeyExists s.launch c.1
  tlb : ∀ t ∈ s.tlb, EntryOk s.launch t
  aligned : s.pc.toNat % 4 = 0
  level : levelExists s.launch s.el = true

/-- A step ends as the architecture says it may: in a next state, in an UNDEFINED instruction, or in an MMU
fault taken as an exception (R479, R520). Every other end is the model's own stop. -/
def ArchitecturalEnd (o : Host.Outcome State Fault Refusal) : Prop :=
  (∃ t, o = .next t) ∨ o = .fault .undefined ∨ ∃ f, o = .fault (.mmuException f)

/-- What software owes a walk through its base register: the bits of the base address above the OA size zero (R179,
R561(b)). -/
def BaseDuty (c : WalkCfg) : Prop :=
  match c.system with
  | .vmsav8 => ∀ level, v8Start c = some level → v8InitialBase c level % 2 ^ v8MaxOa c.opt52 < 2 ^ c.oaSize
  | .vmsav9 => c.baddr.toNat < 2 ^ c.oaSize

/-- What software owes a walk through TnSZ, SL0 and SL2: a start level exists (R561(c)). -/
def StartDuty (c : WalkCfg) : Prop :=
  match c.system, c.stage with
  | .vmsav8, .s1 => v8S1Start c ≠ none
  | .vmsav8, .s2 => v8S2Start c ≠ none
  | .vmsav9, _ => ∃ l, v9RegularStart c.granule c.sz c.twoRanges = some l ∧ l + c.skl ≤ 3

/-- A row of the tables of stage 2 initial lookups: where the condition holds, T0SZ from `lo` to `hi` starts at
the level. -/
structure StartRow where
  cond : Bool
  lo : Nat
  hi : Nat
  level : Int
  deriving DecidableEq, Repr

/-- The row is one of T0SZ. -/
def StartRow.holds (r : StartRow) (sz : Nat) : Prop := r.cond = true ∧ r.lo ≤ sz ∧ sz ≤ r.hi

/-- The rows of Tables D8-20 to D8-24, D8-30 to D8-33 and D8-39 to D8-41, the number of concatenated tables left
out, each with the SL0 and SL2 that Tables D8-19, D8-29 and D8-38 give its level; SL2 is RES0 where DS is 0
(R273, R276 to R280, R316 to R319, R356 to R358). -/
def stage2Rows (c : WalkCfg) : List StartRow :=
  match c.granule with
  | .g4K =>
    [ ⟨c.sl2 && c.ds && c.sl0 == 0, 12, 15, -1⟩, ⟨!(c.sl2 && c.ds) && c.sl0 == 2, 16, 24, 0⟩,
      ⟨!(c.sl2 && c.ds) && c.sl0 == 2 && c.ds, 12, 15, 0⟩, ⟨!(c.sl2 && c.ds) && c.sl0 == 1, 21, 33, 1⟩,
      ⟨!(c.sl2 && c.ds) && c.sl0 == 0, 30, 39, 2⟩, ⟨!(c.sl2 && c.ds) && c.sl0 == 0 && c.ttst, 40, 42, 2⟩,
      ⟨!(c.sl2 && c.ds) && c.sl0 == 3 && c.ttst, 39, 48, 3⟩ ]
  | .g16K =>
    [ ⟨c.sl0 == 3 && c.ds, 12, 16, 0⟩, ⟨c.sl0 == 2, 16, 27, 1⟩, ⟨c.sl0 == 2 && c.ds, 13, 15, 1⟩,
      ⟨c.sl0 == 1, 24, 38, 2⟩, ⟨c.sl0 == 0, 35, 39, 3⟩, ⟨c.sl0 == 0 && c.ttst, 40, 48, 3⟩ ]
  | .g64K =>
    [ ⟨c.sl0 == 2 && c.lpa, 12, 15, 1⟩, ⟨c.sl0 == 2, 16, 21, 1⟩, ⟨c.sl0 == 1, 18, 34, 2⟩,
      ⟨c.sl0 == 0, 31, 39, 3⟩, ⟨c.sl0 == 0 && c.ttst, 40, 47, 3⟩ ]

/-- The rows of Tables D8-18, D8-28 and D8-37, stage 1 of VMSAv8-64 (R272, R312, R352). -/
def stage1Rows (c : WalkCfg) : List StartRow :=
  match c.granule with
  | .g4K =>
    [ ⟨c.ds, 12, 15, -1⟩, ⟨true, 16, 24, 0⟩, ⟨true, 25, 33, 1⟩, ⟨true, 34, 39, 2⟩, ⟨c.ttst, 40, 42, 2⟩,
      ⟨c.ttst, 43, 48, 3⟩ ]
  | .g16K =>
    [ ⟨c.ds, 12, 15, 0⟩, ⟨true, 16, 16, 0⟩, ⟨true, 17, 27, 1⟩, ⟨true, 28, 38, 2⟩, ⟨true, 39, 39, 3⟩,
      ⟨c.ttst, 40, 48, 3⟩ ]
  | .g64K =>
    [ ⟨c.lva, 12, 15, 1⟩, ⟨true, 16, 21, 1⟩, ⟨true, 22, 34, 2⟩, ⟨true, 35, 39, 3⟩, ⟨c.ttst, 40, 47, 3⟩ ]

/-- The rows of Table D8-44 (R382). -/
def vmsav9Rows (g : Granule) : List StartRow :=
  match g with
  | .g4K =>
    [ ⟨true, 8, 11, -2⟩, ⟨true, 12, 19, -1⟩, ⟨true, 20, 27, 0⟩, ⟨true, 28, 35, 1⟩, ⟨true, 36, 43, 2⟩,
      ⟨true, 44, 48, 3⟩ ]
  | .g16K =>
    [ ⟨true, 8, 9, -1⟩, ⟨true, 10, 19, 0⟩, ⟨true, 20, 29, 1⟩, ⟨true, 30, 39, 2⟩, ⟨true, 40, 48, 3⟩ ]
  | .g64K => [ ⟨true, 8, 11, 0⟩, ⟨true, 12, 23, 1⟩, ⟨true, 24, 35, 2⟩, ⟨true, 36, 47, 3⟩ ]

/-- SL0 and SL2 are reserved, or T0SZ is not consistent with the level they give: no row holds it (R281, R283,
R320, R323, R359, R363). -/
def Stage2StartBad (c : WalkCfg) : Prop := ∀ r ∈ stage2Rows c, ¬r.holds c.sz

/-- What software owes with all stages disabled: the region of an instruction and the next one hold no
location that must not be read speculatively (R432, R562). -/
def FetchDuty (l : Launch) (sensitive : Nat → Prop) (pc : Nat) : Prop :=
  ∀ a, sensitive a → regionOf l a ≠ regionOf l pc ∧ regionOf l a ≠ regionOf l pc + 1

end Sys2Proof.Machine
end

