-- ==== Sys2Proof/Certificates/Slice0/Obligations.lean ====
section
/-! DEFINITION. The statements about the model: each is a proposition, for a proof or a refutation elsewhere. -/

open Sys2Proof Sys2Proof.Machine

/-! ### Encoding (R130 to R136) -/

/-- Decoding an encoded well-formed instruction gives it back, whatever bytes follow (R134, R136, R450). -/
def Obligations.DecodeEncodeRoundTrip : Prop :=
  ∀ (i : Instr) (rest : List Byte), i.wellFormed = true →
    decodeBytes (bytesOfWord (encode i) ++ rest) = .ok (i, rest)

/-- Each word has one meaning: encoding what a word decodes to gives the word back. -/
def Obligations.EncodeDecodeRoundTrip : Prop :=
  ∀ (w : BitVec 32) (i : Instr), decode w = .ok i → i.wellFormed = true ∧ encode i = w

/-- The words that decode are those of the opcode map of R136: match value and mask `0xFFFFFFE0`. -/
def Obligations.DecodesExactlyTheOpcodeMap : Prop :=
  ∀ w : BitVec 32, (∃ i, decode w = .ok i) ↔
    w &&& 0xFFFFFFE0#32 ∈ ([0xD5087800#32, 0xD5087820#32, 0xD5087840#32, 0xD5087860#32, 0xD5087900#32,
      0xD5087920#32, 0xD5087940#32, 0xD50C7800#32, 0xD50C7820#32, 0xD50C7880#32, 0xD50C78A0#32,
      0xD50C78C0#32, 0xD50C78E0#32, 0xD50C7940#32, 0xD50E7800#32, 0xD50E7820#32, 0xD50E7940#32] :
      List (BitVec 32))

/-- Words of the opcode map decode to the instructions they stand for, and a NOP to none. -/
def Obligations.OpcodeWordsDecodeRight : Prop :=
  decode 0xD5087800#32 = .ok (.atS1E1R (.x 0)) ∧ decode 0xD508787F#32 = .ok (.atS1E0W .zr) ∧
  decode 0xD5087903#32 = .ok (.atS1E1RP (.x 3)) ∧ decode 0xD50C7891#32 = .ok (.atS12E1R (.x 17)) ∧
  decode 0xD50C7941#32 = .ok (.atS1E2A (.x 1)) ∧ decode 0xD50E783E#32 = .ok (.atS1E3W (.x 30)) ∧
  decode 0xD503201F#32 = .error (.notSys 0xD503201F#32)

/-- The operations are those of the list of R132, and `<pan>` stands only where R131 permits it. -/
def Obligations.OperationsAreThoseListed : Prop :=
  ∀ f : AtForm, (f ∈ operations ↔ ∃ i : Instr, i.form = f) ∧ (f ∈ operations → f.panPermitted = true)

/-! ### The step -/

/-- With no event waiting, a step runs the instruction that the bytes at the program counter decode to, on
the state with the instruction's region recorded as executed and the descriptors its fetch read recorded as
read. -/
def Obligations.StepRunsDecodedInstruction : Prop :=
  ∀ (s : State) (bs rest : List Byte) (i : Instr), s.inputs = [] → (fetchBytes s).2 = .ok bs →
    decodeBytes bs = .ok (i, rest) → step s = exec i (s.noteExecuted.noteWalk (fetchBytes s).1)

/-! ### UNDEFINED (R137, R470, R480) -/

/-- An AT instruction is UNDEFINED in the cases of R137 and in no other. Its case (f), the feature is not
implemented, is the spec's own inference. -/
def Obligations.AtUndefinedExactlyInItsCases : Prop :=
  ∀ (i : Instr) (s : State), exec i s = .fault .undefined ↔ UndefinedAt i.form s

/-- R470: below `<el>`, below the level that controls a stage used, and at EL0. -/
def Obligations.AtBelowItsLevelIsUndefined : Prop :=
  ∀ (i : Instr) (s : State),
    s.el.toNat < (atLevel i.form.el).toNat ∨ s.el = .el0 ∨ (i.form.stages = .s12 ∧ s.el = .el1) →
    exec i s = .fault .undefined

/-- R480, R482: the E2 operations where EL2 is not enabled for the target Security state. -/
def Obligations.El2OperationsNeedEl2 : Prop :=
  ∀ (t : XReg) (i : Instr) (s : State) (ss : SecState),
    i ∈ [Instr.atS1E2R t, .atS1E2W t, .atS1E2A t] →
    targetState s.launch (regsView s .atInstr) .e2 = some ss →
    el2Enabled s.launch (regsView s .atInstr) ss = false →
    exec i s = .fault .undefined

/-! ### Results: where each instruction completes -/

/-- Stage 1 of EL1&0 disabled: the seven S1E0 and S1E1 operations give the flat-mapped address, the space
of the Security state and the attributes of R424 (R421, R451 to R457), these as PAR_EL1 shows them: that Tagged is
not shown without FEAT_MTE2 is the model's reading of R485 (log 19). -/
def Obligations.El1OperationsFlatMap : Prop :=
  ∀ (t : XReg) (i : Instr) (s : State) (ss : SecState),
    i ∈ [Instr.atS1E1R t, .atS1E1W t, .atS1E0R t, .atS1E0W t, .atS1E1RP t, .atS1E1WP t, .atS1E1A t] →
    ExecutesFor i.form s ss → s.pendingRegs = [] →
    stage1Disabled s.launch s.regs .el10 ss = true →
    flatAddress s.regs .el10 (readXt s t) < 2 ^ oaSize1 s.launch s.regs .el10 →
    exec i s = .next (afterAt s
      ⟨formatOf s.regs.unnamed.sysEl10,
        .result (BitVec.ofNat 56 (flatAddress s.regs .el10 (readXt s t))) ss.space
          (parAttrs s.launch (disabledAttrs s.launch s.regs .el10 ss .read))⟩)

/-- Stage 1 of the regime that serves EL2 disabled: the three E2 operations give the flat-mapped address
and Device-nGnRnE (R421, R424, R458, R459, R464). -/
def Obligations.El2OperationsFlatMap : Prop :=
  ∀ (t : XReg) (i : Instr) (s : State) (ss : SecState),
    i ∈ [Instr.atS1E2R t, .atS1E2W t, .atS1E2A t] →
    ExecutesFor i.form s ss → s.pendingRegs = [] →
    s.regs.sctlrEl2.m = false →
    flatAddress s.regs (el2Regime s.regs ss) (readXt s t) <
      2 ^ oaSize1 s.launch s.regs (el2Regime s.regs ss) →
    exec i s = .next (afterAt s
      ⟨formatOf (system1 s.regs (el2Regime s.regs ss)),
        .result (BitVec.ofNat 56 (flatAddress s.regs (el2Regime s.regs ss) (readXt s t))) ss.space
          (.deviceNGnRnE (if s.launch.featXs then some true else none))⟩)

/-- Stage 1 of EL3 disabled: the three E3 operations give the flat-mapped address, in Root space with
FEAT_RME and Secure space without, and Device-nGnRnE (R421, R424, R465 to R467). -/
def Obligations.El3OperationsFlatMap : Prop :=
  ∀ (t : XReg) (i : Instr) (s : State),
    i ∈ [Instr.atS1E3R t, .atS1E3W t, .atS1E3A t] →
    featureImplemented s.launch i.form.feature = true → s.el = .el3 → s.pendingRegs = [] →
    s.regs.sctlrEl3.m = false →
    flatAddress s.regs .el3 (readXt s t) < 2 ^ oaSize1 s.launch s.regs .el3 →
    exec i s = .next (afterAt s
      ⟨formatOf s.regs.unnamed.sysEl3,
        .result (BitVec.ofNat 56 (flatAddress s.regs .el3 (readXt s t)))
          (if s.launch.featRme then .root else .secure)
          (.deviceNGnRnE (if s.launch.featXs then some true else none))⟩)

/-- Both stages of EL1&0 disabled: the four S12 operations give the flat-mapped address (R430, R431, R460
to R463). -/
def Obligations.S12OperationsFlatMap : Prop :=
  ∀ (t : XReg) (i : Instr) (s : State) (ss : SecState),
    i ∈ [Instr.atS12E1R t, .atS12E1W t, .atS12E0R t, .atS12E0W t] →
    ExecutesFor i.form s ss → s.pendingRegs = [] →
    stage1Disabled s.launch s.regs .el10 ss = true →
    stage2Enabled s.launch s.regs .el10 ss = false →
    flatAddress s.regs .el10 (readXt s t) < 2 ^ oaSize1 s.launch s.regs .el10 →
    exec i s = .next (afterAt s
      ⟨formatOf s.regs.unnamed.sysEl10,
        .result (BitVec.ofNat 56 (flatAddress s.regs .el10 (readXt s t))) ss.space
          (.deviceNGnRnE (if s.launch.featXs then some true else none))⟩)

/-- A one-lookup walk: with the 4KB granule, a 48-bit OA and an initial level of 1, a Block descriptor at
`BaseAddr[PAsize-1:x] : IA[x+26:30] : 0b000` gives `OAB[47:30] : IA[29:0]` (R266, R272, R286, R467). The space is
the one R169 allows of what the descriptor asks for, as the model reads it (log 42), Tagged is not shown without
FEAT_MTE2 (R485, log 19), and the descriptor is recorded as read (log 46). -/
def Obligations.El3BlockWalkCompletes : Prop :=
  ∀ (t : XReg) (s : State) (b : LeafDesc) (x da : Nat),
    s.launch.featAts1a = true → s.el = .el3 → Quiet s → s.softAccesses = [] →
    s.regs.sctlrEl3.m = true → s.regs.unnamed.sysEl3 = .vmsav8 → s.regs.unnamed.tbiEl3 = false →
    s.regs.tcrEl3.tg0 = .g4K → s.regs.tcrEl3.ds = false →
    25 ≤ s.regs.tcrEl3.t0sz.toNat → s.regs.tcrEl3.t0sz.toNat ≤ 33 →
    (readXt s t).toNat < 2 ^ (64 - s.regs.tcrEl3.t0sz.toNat) →
    s.regs.ttbr0El3.baddr.toNat % 2 ^ 48 < 2 ^ oaSize1 s.launch s.regs .el3 →
    x = 37 - s.regs.tcrEl3.t0sz.toNat →
    da = alignDown (s.regs.ttbr0El3.baddr.toNat % 2 ^ 48 % 2 ^ physBits s.launch) x +
      field (readXt s t).toNat 30 (x - 3) * 8 →
    physExists s.launch (el3State s.launch).space da 8 = true →
    decodeDesc s.launch s.regs
        (decodeCtx (stage1Cfg s.launch s.regs .el3 (el3State s.launch) false) 1)
        (BitVec.ofNat 128 (valueOfBytes s.regs.sctlrEl3.ee
          (observedBytes s.mem [] 0 (memKey (el3State s.launch).space da) 8))) = .block b →
    exec (.atS1E3A t) s = .next (afterAt
      (s.noteReads [⟨memKey (el3State s.launch).space da, 8, s.regs.tcrEl3.tableAttrs0⟩])
      ⟨.bits64,
        .result (BitVec.ofNat 56 (alignDown (b.oab.toNat % 2 ^ 48) 30 + (readXt s t).toNat % 2 ^ 30))
          (outputSpace (stage1Cfg s.launch s.regs .el3 (el3State s.launch) false) b.ns)
          (parAttrs s.launch b.attrs)⟩)

/-- HCR_EL2.DC: stage 1 of Non-secure EL1&0 is a flat map and stage 2 translates its output; a level 1
Block descriptor of the 4KB granule gives `OAB[47:30] : IPA[29:0]` in Non-secure space (R274, R281, R286,
R425, R428, R460). Tagged is not shown without FEAT_MTE2, as the model reads R485 (log 19), and the descriptor is
recorded as read (log 46). -/
def Obligations.S12UnderDcTranslatesAtStage2 : Prop :=
  ∀ (t : XReg) (s : State) (b : LeafDesc) (x da : Nat),
    2 ≤ s.el.toNat → s.launch.haveEl3 = true → s.regs.scrEl3 = ⟨false, true⟩ → Quiet s →
    s.softAccesses = [] → s.launch.checkPermsIdentity = true → s.launch.featThe = false →
    el2Enabled s.launch s.regs .nonSecure = true → s.regs.hcrEl2.dc = true →
    flatAddress s.regs .el10 (readXt s t) = (readXt s t).toNat →
    (readXt s t).toNat < 2 ^ oaSize1 s.launch s.regs .el10 →
    s.regs.unnamed.sysStage2 = .vmsav8 → s.regs.vtcrEl2.tg0 = .g4K → s.regs.vtcrEl2.ds = false →
    s.regs.vtcrEl2.sl0 = 1 → 21 ≤ s.regs.vtcrEl2.t0sz.toNat → s.regs.vtcrEl2.t0sz.toNat ≤ 33 →
    (readXt s t).toNat < 2 ^ (64 - s.regs.vtcrEl2.t0sz.toNat) →
    s.regs.vttbrEl2.baddr.toNat % 2 ^ 48 < 2 ^ boundedOaSize s.launch .vmsav8 s.regs.unnamed.oaStage2 →
    x = 37 - s.regs.vtcrEl2.t0sz.toNat →
    da = alignDown (s.regs.vttbrEl2.baddr.toNat % 2 ^ 48 % 2 ^ physBits s.launch) x +
      field (readXt s t).toNat 30 (x - 3) * 8 →
    physExists s.launch .nonSecure da 8 = true →
    decodeDesc s.launch s.regs (decodeCtx (stage2Cfg s.launch s.regs .nonSecure .nonSecure) 1)
        (BitVec.ofNat 128 (valueOfBytes s.regs.sctlrEl2.ee
          (observedBytes s.mem [] 0 (memKey .nonSecure da) 8))) = .block b →
    exec (.atS12E1R t) s = .next (afterAt
      (s.noteReads [⟨memKey .nonSecure da, 8, s.regs.vtcrEl2.tableAttrs⟩])
      ⟨.bits64,
        .result (BitVec.ofNat 56 (alignDown (b.oab.toNat % 2 ^ 48) 30 + (readXt s t).toNat % 2 ^ 30))
          .nonSecure
          (parAttrs s.launch (Config.combineAttrs (disabledAttrs s.launch s.regs .el10 .nonSecure .read)
            b.attrs))⟩)

/-- R475: a successful translation is reported in PAR_EL1 with F 0 and the whole OA. That its space is kept is
the model's choice (log 18), that Tagged is not shown without FEAT_MTE2 its reading (log 19); the descriptors read
are recorded (log 46). -/
def Obligations.SuccessIsReportedInPar : Prop :=
  ∀ (i : Instr) (s : State) (ss : SecState) (f : AtForm) (x : Traced TransOk) (o : TransOk),
    ExecutesFor i.form s ss → f = equivalentForm s.launch (regsView s .atInstr) ss i.form →
    x = translateAddress s (atRequest (regsView s .atInstr) ss f (readXt s i.xt)) → x.2 = .ok o →
    ∃ p : Par, exec i s = .next (afterAt (s.noteWalk x.1) p) ∧ p.f = false ∧
      p.body = .result (BitVec.ofNat 56 o.oa) o.space (parAttrs s.launch o.attrs)

/-- R479, D12: a fault is reported in PAR_EL1 with F 1, or taken as an exception with its record, as
`ATFaultReport` says; the descriptors read are recorded (log 46). -/
def Obligations.FaultIsReportedOrTaken : Prop :=
  ∀ (i : Instr) (s : State) (ss : SecState) (f : AtForm) (x : Traced TransOk) (e : MmuFault),
    ExecutesFor i.form s ss → f = equivalentForm s.launch (regsView s .atInstr) ss i.form →
    x = translateAddress s (atRequest (regsView s .atInstr) ss f (readXt s i.xt)) → x.2 = .mmu e →
    (atReports s.launch f e = true → ∃ p : Par, exec i s = .next (afterAt (s.noteWalk x.1) p) ∧ p.f = true) ∧
    (atReports s.launch f e = false → exec i s = .fault (.mmuException e))

/-! ### Frame -/

/-- R450: an AT instruction that completes writes PAR_EL1 and no other register and no memory; the next
instruction is at the following word, 4 bytes on (log 7), and an unsynchronised read of PAR_EL1 may still give the
old value (R577). That the TLB keeps its entries and gains none here is the model's choice: it gains the entries of
a walk by events of their own (D10, log 23). What the walk read is recorded before what was read (log 46), and the
model's counter of choices advances. -/
def Obligations.AtWritesOnlyPar : Prop :=
  ∀ (i : Instr) (s t : State), exec i s = .next t →
    t.launch = s.launch ∧ t.xs = s.xs ∧ t.el = s.el ∧ t.pan = s.pan ∧ t.regs = s.regs ∧
    t.pendingRegs = s.pendingRegs ∧ t.mem = s.mem ∧ (∀ k, memRead t.mem k = memRead s.mem k) ∧
    t.pendingWrites = s.pendingWrites ∧ t.softAccesses = s.softAccesses ∧
    (∃ xs, t.tableReads = xs ++ s.tableReads) ∧ t.tlb = s.tlb ∧
    t.executed = s.executed ∧ t.branches = s.branches ∧ t.inputs = s.inputs ∧ t.output = s.output ∧
    t.pc = s.pc + 4 ∧ t.parStale = s.par :: s.parStale

/-- R472, R473: the format of PAR_EL1 follows the translation system: of stage 1 for the S1 operations; of
stage 2 for the S12 operations where it is enabled, else of stage 1. That an S1 operation has the 64-bit
format where R472 does not name the 128-bit one is the spec's inference. -/
def Obligations.ParFormatFollowsTheSystem : Prop :=
  ∀ (i : Instr) (s t : State) (ss : SecState), ExecutesFor i.form s ss → exec i s = .next t →
    t.par.format =
      if i.form.stages = .s12 ∧ stage2Enabled s.launch (regsView s .atInstr) .el10 ss = true then
        formatOf (regsView s .atInstr).unnamed.sysStage2
      else formatOf (system1 (regsView s .atInstr) (atRegime (regsView s .atInstr) ss i.form.el))

/-! ### Whole-machine rules -/

/-- R478: no AT instruction gives an Alignment fault. That no translation does is R512 as the model reads it:
at an open point too (log 16). -/
def Obligations.NoAlignmentFault : Prop :=
  (∀ (s : State) (q : Request) (f : MmuFault), (translateAddress s q).2 = .mmu f → f.kind ≠ .alignment) ∧
  ∀ (i : Instr) (s : State) (f : MmuFault), exec i s = .fault (.mmuException f) → f.kind ≠ .alignment

/-- The output space is one the target Security state may have: Non-secure for Non-secure, Secure or
Non-secure for Secure, Realm or Non-secure for Realm (R169, R471). Without FEAT_RME it is never Realm or Root (R21,
R531). -/
def Obligations.ResultSpaceBelongsToTheState : Prop :=
  ∀ (i : Instr) (s t : State) (ss : SecState) (pa : PAddr) (sp : Space) (a : Attrs),
    ExecutesFor i.form s ss → ss ≠ .root → exec i s = .next t → t.par.body = .result pa sp a →
      Visible ss sp ∧ (s.launch.featRme = false → sp = .secure ∨ sp = .nonSecure)

/-- An AT instruction for a Security state learns nothing of memory outside the PA spaces that state's
lookups go to: with other bytes there its outcome is the same (R104 to R112, R471). -/
def Obligations.OtherSpacesDoNotMatter : Prop :=
  ∀ (i : Instr) (s : State) (ss : SecState) (m : List Host.Cell),
    ExecutesFor i.form s ss → AgreeOn ss s.mem m →
    exec i (s.withMem m) = withMemOutcome m (exec i s)

/-- A stage makes at most the six lookups of levels -2 to 3: no translation stops for making more (R408). -/
def Obligations.WalksEnd : Prop :=
  ∀ (s : State) (q : Request), (∀ t ∈ s.tlb, EntryOk s.launch t) → (translateAddress s q).2 ≠ .stop .walkTooLong

/-- With no hazard window open and no open point free, a translation does not depend on any choice between
permitted outcomes (R570 to R578). -/
def Obligations.QuietTranslationIsDetermined : Prop :=
  ∀ (s : State) (q : Request) (n : Nat), Quiet s → NoFreePoint s.launch →
    translateAddress { s with draws := n } q = translateAddress s q

/-- R481: where EL2 is disabled or not implemented for the target Security state, an S12 operation executed
at EL2 or EL3 does what the equivalent S1 operation does. That this holds without EL3 too, and that it
includes which faults are reported, is the model's reading (log 43). -/
def Obligations.S12IsS1WithoutEl2 : Prop :=
  ∀ (t : XReg) (s : State) (ss : SecState), 2 ≤ s.el.toNat →
    lowerState s.launch (regsView s .atInstr) = some ss →
    el2Enabled s.launch (regsView s .atInstr) ss = false →
    exec (.atS12E1R t) s = exec (.atS1E1R t) s ∧ exec (.atS12E1W t) s = exec (.atS1E1W t) s ∧
    exec (.atS12E0R t) s = exec (.atS1E0R t) s ∧ exec (.atS12E0W t) s = exec (.atS1E0W t) s

/-- R455, R456: with PSTATE.PAN 0 the operations with `<pan>` give the results of those without. Here no write
waits to be observed, or `ATFaultReport` is no unknown function of the operation: it decides which faults are
taken, and a fault taken is one that FEAT_ETS2 and FEAT_ETS3 order earlier writes before (R479, log 28). -/
def Obligations.PanZeroAgrees : Prop :=
  ∀ (t : XReg) (s u : State), s.pan = false → s.launch.featPan2 = true → u.par.f = false →
    s.pendingWrites = [] ∨ s.launch.atFaults ≠ .parameter →
    (exec (.atS1E1RP t) s = .next u ↔ exec (.atS1E1R t) s = .next u) ∧
    (exec (.atS1E1WP t) s = .next u ↔ exec (.atS1E1W t) s = .next u)

/-- No step changes a launch parameter (R7). -/
def Obligations.LaunchNeverChanges : Prop :=
  ∀ s t : State, step s = .next t → t.launch = s.launch

/-- The state after reset has what every step keeps. The values it holds are the model's own choice. -/
def Obligations.ResetHasTheInvariant : Prop := Inv State.reset

/-- Every step keeps the invariant, from every state that has it (R22, R70, R210). -/
def Obligations.StepKeepsTheInvariant : Prop :=
  ∀ s t : State, Inv s → step s = .next t → Inv t

/-! ### Registers, barriers, writes (R83, R95 to R101, R577) -/

/-- R98: of the TTBR0_ELx and TTBR1_ELx writes, a translation observes one point in their order. That it is
one point for the registers of all Exception levels together is the model's choice (log 25). -/
def Obligations.TtbrsAreSeenAtOnePoint : Prop :=
  ∀ (s : State) (p : Purpose), ∃ pre rest : List SysWrite, s.pendingRegs = pre ++ rest ∧
    (regsView s p).ttbr0El1 = (pre.foldl (fun r w => w.apply r) s.regs).ttbr0El1 ∧
    (regsView s p).ttbr1El1 = (pre.foldl (fun r w => w.apply r) s.regs).ttbr1El1 ∧
    (regsView s p).ttbr0El2 = (pre.foldl (fun r w => w.apply r) s.regs).ttbr0El2 ∧
    (regsView s p).ttbr1El2 = (pre.foldl (fun r w => w.apply r) s.regs).ttbr1El2 ∧
    (regsView s p).ttbr0El3 = (pre.foldl (fun r w => w.apply r) s.regs).ttbr0El3

/-- R99, R573, R577: after an ISB every translation reads the registers as all writes left them, and a
direct read of PAR_EL1 gives its value. -/
def Obligations.IsbClosesTheRegisterWindows : Prop :=
  ∀ s : State, ∃ t, applyEvent s .isb = .next t ∧
    (∀ p, regsView t p = s.pendingRegs.foldl (fun r w => w.apply r) s.regs) ∧
    ∃ u, applyEvent t .readPar = .next u ∧ u.output = .parValue s.par

/-- R96, R115: after a DSB no write of this PE waits to be observed but those with the Reduced Coherence
property, of these the last one alone to each byte, each settled for the walks that may not ignore it (R117), and an
explicit read sees what it saw. -/
def Obligations.DsbSettlesOwnWrites : Prop :=
  ∀ s : State, Memory.wf s.mem = true → ∃ t, applyEvent s .dsb = .next t ∧
    (∀ w ∈ t.pendingWrites, w.own = true → w.reduced = true ∧ w.settled = true) ∧
    (t.pendingWrites.Pairwise fun v w => w.own = true → ∀ c ∈ v.cells, w.covers c.1 = false) ∧
    ∀ k n, coherentBytes t k n = coherentBytes s k n

/-- R96: an aligned 8-byte store, then a DSB: the walker reads the stored value there. That the store puts its
value in memory little-endian is the model's choice (D20, log 48), and that EE 0 means little-endian for the walker
is general knowledge (G6, log 29). -/
def Obligations.StoreThenDsbIsObserved : Prop :=
  ∀ (s t u : State) (a : ExplicitAccess) (v : BitVec 128) (q : Request) (o : TransOk) (pt : ChoicePoint)
    (force mayIgnore : Bool), Memory.wf s.mem = true → s.pendingWrites = [] → a.size = 3 →
    a.va.toNat % 8 = 0 → contextRequest s (regsView s .explicit) (dataAccess s a .write) a.va .explicit = some q →
    (translateAddress s q).2 = .ok o → applyEvent s (.memWrite a v) = .next t → applyEvent t .dsb = .next u →
    ttdRead u pt force mayIgnore o.space o.oa 8 false = .ok (BitVec.ofNat 128 (v.toNat % 2 ^ 64))

/-- R83: while one write of a whole descriptor waits, the walker reads the old value or the new one. -/
def Obligations.DescriptorReadIsOldOrNew : Prop :=
  ∀ (s : State) (w : PendingWrite) (bs : List Byte) (pt : ChoicePoint) (force mayIgnore ee : Bool) (sp : Space)
    (pa : Nat), s.pendingWrites = [w] → w.cells = cellsFrom (memKey sp pa) bs →
    physExists s.launch sp pa bs.length = true →
    ttdRead s pt force mayIgnore sp pa bs.length ee = .ok (BitVec.ofNat 128 (valueOfBytes ee bs)) ∨
    ttdRead s pt force mayIgnore sp pa bs.length ee =
      .ok (BitVec.ofNat 128 (valueOfBytes ee (observedBytes s.mem [] 0 (memKey sp pa) bs.length)))

/-- R101: with FEAT_ETS3 an explicit data access that ends in an MMU fault, of its translation or of its own
judgement of the result, and an AT instruction that takes one as an exception, does so with the earlier explicit
accesses of this PE observed. That an AT instruction is ordered where it takes the fault, and not where it reports
it, is the model's reading (log 28). -/
def Obligations.Ets3FaultsSeeEarlierWrites : Prop :=
  (∀ (s : State) (q : Request) (judge : TransOk → Option MmuFault) (f : MmuFault), s.launch.featEts3 = true →
    q.purpose = .explicit → q.form = none → q.acc.kind ≠ .fetch → (translateJudged s q judge).2 = .mmu f →
    (judged judge (attempt s (regsView s .explicit) true q)).2 = .mmu f) ∧
  ∀ (i : Instr) (s : State) (ss : SecState) (f : AtForm) (e : MmuFault), s.launch.featEts3 = true →
    ExecutesFor i.form s ss → f = equivalentForm s.launch (regsView s .atInstr) ss i.form →
    exec i s = .fault (.mmuException e) →
    (attempt s (regsView s .atInstr) true (atRequest (regsView s .atInstr) ss f (readXt s i.xt))).2 = .mmu e

/-- R100, R117: a descriptor read gives the value of the last write, where that one covers the descriptor, is ordered
before the read, and has not the Reduced Coherence property or the walk may ignore no write that has it. The order
is that of FEAT_ETS2 or FEAT_ETS3, for a write of this PE by no SIMD instruction, or of any agent that an explicit
read of this PE by no SIMD instruction returned; or, where the walk may ignore no Reduced Coherence write, that of a
barrier which has settled the write. That an explicit read orders the write it returned, since it is an Explicit
Memory Effect too, is the model's reading (log 28). -/
def Obligations.OrderedReadSeesTheLastWrite : Prop :=
  ∀ (s : State) (ws : List PendingWrite) (w : PendingWrite) (bs : List Byte) (pt : ChoicePoint)
    (force mayIgnore ee : Bool) (sp : Space) (pa : Nat), s.pendingWrites = ws ++ [w] →
    (force = true ∧ ((w.own = true ∧ w.simd = false) ∨ w.readBack = true)) ∨
      (mayIgnore = false ∧ w.settled = true) →
    w.reduced = false ∨ mayIgnore = false → bs ≠ [] →
    w.cells = cellsFrom (memKey sp pa) bs → physExists s.launch sp pa bs.length = true →
    ttdRead s pt force mayIgnore sp pa bs.length ee = .ok (BitVec.ofNat 128 (valueOfBytes ee bs))

/-! ### RCW and RCWS (R113, R226 to R234) -/

/-- R226: where the checks forbid the update, memory keeps the old descriptor. The read that the instruction
makes is an explicit one all the same (R100); no walk has read the descriptor with other attributes (R93). The regime of the executing context is the spec's choice (R235),
what counts as a change its D28; that the instruction completes with an answer is the model's (log 49). -/
def Obligations.FailedChecksKeepTheDescriptor : Prop :=
  ∀ (s : State) (sw wide : Bool) (sp : Space) (slot : Nat) (new : Raw) (attrs : Attrs) (ss : SecState)
    (g : Regime) (r : SysRegs) (k : Nat), s.launch.featThe = true → r = regsView s .explicit →
    stateAt s.launch r s.el = some ss → g = regimeOf r ss s.el →
    physExists s.launch sp (slot * rcwBytes wide) (rcwBytes wide) = true → k = memKey sp (slot * rcwBytes wide) →
    tableMismatch s.tableReads k (rcwBytes wide) attrs = false →
    (protectionEnabled s.launch r g = true ∧
      rcwChecksFail (rcwCheckOf s.launch r g wide (rcwOld s (sctlrOf r g).ee wide k) (rcwNew wide new)) = true) ∨
    (sw = true ∧
      rcwsChecksFail (rcwCheckOf s.launch r g wide (rcwOld s (sctlrOf r g).ee wide k) (rcwNew wide new)) = true) →
    ∃ t, applyEvent s (.rcw sw wide sp slot new attrs) = .next t ∧ t.mem = s.mem ∧
      t.pendingWrites = markRead k (rcwBytes wide) s.pendingWrites ∧
      (∀ j n, coherentBytes t j n = coherentBytes s j n) ∧ t.output = .rcwUpdated false

/-- R231: an RCWS instruction can never change the validity of a descriptor. -/
def Obligations.RcwsNeverChangesValidity : Prop :=
  ∀ (s t : State) (wide : Bool) (sp : Space) (slot : Nat) (new : Raw) (attrs : Attrs) (ss : SecState)
    (r : SysRegs) (sys : System), r = regsView s .explicit → stateAt s.launch r s.el = some ss →
    sys = (if wide then .vmsav9 else .vmsav8) →
    applyEvent s (.rcw true wide sp slot new attrs) = .next t → t.output = .rcwUpdated true →
    rawValid s.launch sys (rcwNew wide new) =
      rawValid s.launch sys (rcwOld s (sctlrOf r (regimeOf r ss s.el)).ee wide
        (memKey sp (slot * rcwBytes wide)))

/-- R233: where Protection is not enabled, an RCW instruction can change all bits of a descriptor. The regime of
the executing context is the spec's choice (R235), that the instruction completes with the whole new value the
model's (log 49); no walk has read the descriptor with other attributes (R93). -/
def Obligations.RcwWithoutProtectionWritesAll : Prop :=
  ∀ (s : State) (wide : Bool) (sp : Space) (slot : Nat) (new : Raw) (attrs : Attrs) (ss : SecState)
    (r : SysRegs), s.launch.featThe = true → r = regsView s .explicit →
    stateAt s.launch r s.el = some ss → protectionEnabled s.launch r (regimeOf r ss s.el) = false →
    physExists s.launch sp (slot * rcwBytes wide) (rcwBytes wide) = true →
    tableMismatch s.tableReads (memKey sp (slot * rcwBytes wide)) (rcwBytes wide) attrs = false →
    ∃ t, applyEvent s (.rcw false wide sp slot new attrs) = .next t ∧
      rcwOld t (sctlrOf r (regimeOf r ss s.el)).ee wide (memKey sp (slot * rcwBytes wide)) = rcwNew wide new

/-- R113: of the updates, those by RCWS with PTTWI 1 have the Reduced Coherence property; here nothing is
cached that holds another PTTWI. That PTTWI is that of the regime of the executing context is the spec's choice
(R235), how the instruction stands in the model log 49. -/
def Obligations.ReducedCoherenceNeedsRcwsAndPttwi : Prop :=
  ∀ (s t : State) (sw wide : Bool) (sp : Space) (slot : Nat) (new : Raw) (attrs : Attrs) (ss : SecState)
    (r : SysRegs), s.tlb = [] → r = regsView s .explicit → stateAt s.launch r s.el = some ss →
    applyEvent s (.rcw sw wide sp slot new attrs) = .next t → t.output = .rcwUpdated true →
    ∃ w, t.pendingWrites = markRead (memKey sp (slot * rcwBytes wide)) (rcwBytes wide) s.pendingWrites ++ [w] ∧
      (w.reduced = true ↔ sw = true ∧ pttwiOf s.launch r (regimeOf r ss s.el) ss = true)

/-! ### The walk (R165 to R196, R244 to R250, R283, R381 to R407, R421 to R428) -/

/-- R165: an Invalid descriptor gives a Translation fault at the lookup level and stage it was read at. -/
def Obligations.InvalidDescriptorFaultsAtItsLevel : Prop :=
  ∀ (e : WalkEnv) (c : WalkCfg) (place : WalkPos → Traced DescPlace) (ia n : Nat) (p : WalkPos)
    (at_ : DescPlace), (place p).2 = .ok at_ → lookup e c p at_ ia = .ok .invalid →
    ∃ cause, (walkLoop e c place ia (n + 1) p).2 = .mmu ⟨.translation, p.level, c.stage, cause⟩

/-- R183: bits of the base address above an OA size smaller than the maximum give an Address size fault at level
0, whatever the initial level is. That without them the walk goes to its first lookup is derived. It rests on the
spec's own inference in R174 that a register value not aligned to the table does not fault, and on two choices of the
model of which register bits make up the base address: bits [5:2] give its bits [51:48] only where the 52-bit OA size
is in use as log 62 reads it, so not with the 64KB granule and an OA size of 48 bits or less, and register bits from
48 up take no part in the check, which R183 leaves open (log 63). -/
def Obligations.LargeBaseAddressFaultsAtLevelZero : Prop :=
  ∀ (s : State) (c : WalkCfg) (assured : Bool) (ia : Nat) (level : Int), c.system = .vmsav8 →
    v8Start c = some level → (c.stage = .s2 → ia < 2 ^ (64 - c.sz)) →
    let x := v8X c.granule level true c.sz
    let base := v8BaseAddr c.baddr c.oa52 / 2 ^ x * 2 ^ x
    if c.oaSize < v8MaxOa c.opt52 ∧ base % 2 ^ v8MaxOa c.opt52 / 2 ^ c.oaSize ≠ 0 then
      ∃ cause, startWalk s c assured ia = .mmu ⟨.addressSize, 0, c.stage, cause⟩
    else ∃ p, startWalk s c assured ia = .ok (.go p) ∧ p.level = level

/-- R283, R323, R363: a reserved SL0 or SL2, or a T0SZ that no row of the granule's tables has with them, gives
a stage 2 level 0 Translation fault when the walk is started; any other does not, and the first lookup is
then at the level of the row. That the rows are what consistent means is the spec's inference (R281, R320,
R359), and that nothing else gives this fault is R502. -/
def Obligations.BadStage2StartFaults : Prop :=
  ∀ (s : State) (c : WalkCfg) (assured : Bool) (ia : Nat), c.system = .vmsav8 → c.stage = .s2 → c.sl0 ≤ 3 →
    (Stage2StartBad c ↔ startWalk s c assured ia = .mmu ⟨.translation, 0, .s2, .stage2Start⟩) ∧
    ∀ (r : StartRow) (p : WalkPos), r ∈ stage2Rows c → r.holds c.sz → startWalk s c assured ia = .ok (.go p) →
      p.level = r.level

/-- R190: a VA in neither range gives a stage 1 level 0 Translation fault, whatever the TLB holds. -/
def Obligations.VaOutsideBothRangesFaults : Prop :=
  ∀ (s : State) (r : SysRegs) (force : Bool) (q : Request), q.regime = .el10 ∨ q.regime = .el20 →
    stage1Disabled s.launch r q.regime q.ss = false →
    topByteIgnore r q.regime (upperRange q.regime q.va) = false →
    2 ^ (64 - (tcrOf r q.regime).t0sz.toNat) ≤ q.va.toNat →
    q.va.toNat < 2 ^ 64 - 2 ^ (64 - (tcrOf r q.regime).t1sz.toNat) →
    ∃ cause, attempt s r force q = Traced.pure (.mmu ⟨.translation, 0, .s1, cause⟩)

/-- R193: with EPDn 1 and no TLB entry that answers the address, an address of the range gives a level 0
Translation fault and no lookup is made. -/
def Obligations.EpdMissFaults : Prop :=
  ∀ (s : State) (r : SysRegs) (force : Bool) (q : Request), q.regime = .el10 ∨ q.regime = .el20 →
    (∀ t ∈ s.tlb, t.answers (stage1Cfg s.launch r q.regime q.ss (upperRange q.regime q.va))
      (checkedVa r q.regime q.va) = false) →
    stage1Disabled s.launch r q.regime q.ss = false →
    (tcrOf r q.regime).epd (q.va.getLsbD 55) = true →
    ∃ cause, attempt s r force q = Traced.pure (.mmu ⟨.translation, 0, .s1, cause⟩)

/-- R196, R197: where E0PDn prevents an EL0 access, a level 0 Translation fault is given, whatever the TLB
holds, and no lookup is made. -/
def Obligations.E0pdFaults : Prop :=
  ∀ (s : State) (r : SysRegs) (force : Bool) (q : Request), q.regime = .el10 ∨ q.regime = .el20 →
    s.launch.featE0pd = true → q.el = .el0 → stage1Disabled s.launch r q.regime q.ss = false →
    (tcrOf r q.regime).e0pd (q.va.getLsbD 55) = true →
    ∃ cause, attempt s r force q = Traced.pure (.mmu ⟨.translation, 0, .s1, cause⟩)

/-- R191: VA bit 55 selects TTBR0_ELx or TTBR1_ELx, and with it TnSZ, TGn and HPDn. -/
def Obligations.Bit55SelectsTheTtbr : Prop :=
  ∀ (l : Launch) (r : SysRegs) (ss : SecState) (va : Word),
    let c := stage1Cfg l r .el10 ss (upperRange .el10 va)
    let d := stage1Cfg l r .el20 ss (upperRange .el20 va)
    (va.getLsbD 55 = false →
      c.baddr = r.ttbr0El1.baddr ∧ c.sz = r.tcrEl1.t0sz.toNat ∧ c.granule = r.tcrEl1.tg0 ∧ c.hpd = r.tcrEl1.hpd0 ∧
      d.baddr = r.ttbr0El2.baddr ∧ d.sz = r.tcrEl2.t0sz.toNat ∧ d.granule = r.tcrEl2.tg0 ∧ d.hpd = r.tcrEl2.hpd0) ∧
    (va.getLsbD 55 = true →
      c.baddr = r.ttbr1El1.baddr ∧ c.sz = r.tcrEl1.t1sz.toNat ∧ c.granule = r.tcrEl1.tg1 ∧ c.hpd = r.tcrEl1.hpd1 ∧
      d.baddr = r.ttbr1El2.baddr ∧ d.sz = r.tcrEl2.t1sz.toNat ∧ d.granule = r.tcrEl2.tg1 ∧ d.hpd = r.tcrEl2.hpd1)

/-- R164, R167, R397: a Table descriptor leads to the level after it, and past SKL levels more under
VMSAv9-128; never beyond level 3, by R264 and its siblings and by the spec's decision D13 (log 36). -/
def Obligations.TableDescriptorsLeadToLaterLevels : Prop :=
  ∀ (c : WalkCfg) (p p' : WalkPos) (t : TableDesc) (mro : Bool) (ia : Nat), -2 ≤ p.level → p.level ≤ 3 →
    descStep c p (.table t) mro ia = .ok (.go p') →
    p'.first = false ∧ p'.level ≤ 3 ∧
    p'.level = p.level + 1 + (if c.system = .vmsav9 then (t.skl.toNat : Int) else 0)

/-- R106: a Secure stage 1 walk starts in Secure space; NSTable 1 sends the next lookup to Non-secure
space, and no later descriptor brings it back. -/
def Obligations.NsTableLatches : Prop :=
  (∀ (s : State) (l : Launch) (r : SysRegs) (g : Regime) (upper assured : Bool) (ia : Nat) (p : WalkPos),
    startWalk s (stage1Cfg l r g .secure upper) assured ia = .ok (.go p) → p.space = .secure) ∧
  ∀ (c : WalkCfg) (p p' : WalkPos) (t : TableDesc) (mro : Bool) (ia : Nat), c.ss = .secure → c.stage = .s1 →
    descStep c p (.table t) mro ia = .ok (.go p') →
    (p.space = .secure → p'.space = if t.nsTable then .nonSecure else .secure) ∧
    (p.space = .nonSecure → p'.space = .nonSecure)

/-- The initial level of a VMSAv8-64 stage 1 walk is that of the row of Table D8-18, D8-28 or D8-37 which holds
TnSZ, with its requirement on DS, FEAT_LVA or FEAT_TTST, and there is none for any other TnSZ; it is the last
level less the whole levels that the IA bits above the page resolve (R272, R312, R352). -/
def Obligations.Vmsav8StartLevelFormula : Prop :=
  ∀ (c : WalkCfg) (level : Int),
    (v8S1Start c = some level ↔ ∃ r ∈ stage1Rows c, r.holds c.sz ∧ r.level = level) ∧
    (v8S1Start c = some level →
      level = 3 - (((64 - c.sz - c.granule.bits - 1) / (c.granule.bits - 3) : Nat) : Int))

/-- The regular start level of VMSAv9-128 is that of the row of Table D8-44 which holds TnSZ, and there is none
for any other TnSZ, nor below 9 for a stage with two ranges (log 57); it satisfies the formula of C2 (R382,
R409). -/
def Obligations.Vmsav9StartLevelFormula : Prop :=
  ∀ (g : Granule) (sz : Nat) (two : Bool) (level : Int),
    (v9RegularStart g sz two = some level ↔
      (two = true → 9 ≤ sz) ∧ ∃ r ∈ vmsav9Rows g, r.holds sz ∧ r.level = level) ∧
    (v9RegularStart g sz two = some level →
      level = 3 - (((64 - sz - v9PageIndex g - 1) / v9Stride g : Nat) : Int))

/-- D13: the next level table is too large exactly when the next lookup level is greater than 3 (R400). -/
def Obligations.TableTooLargeMeansPastLevelThree : Prop :=
  ∀ (g : Granule) (level : Int) (skl : BitVec 2), -2 ≤ level → level ≤ 3 →
    (v9TableTooLarge g level skl = true ↔ 3 < level + 1 + skl.toNat)

/-- R85: every descriptor address is aligned to the size of the descriptor, at the first lookup of a walk
and at every later one. -/
def Obligations.DescriptorAddressesAreAligned : Prop :=
  (∀ (s : State) (c : WalkCfg) (assured : Bool) (ia : Nat) (p : WalkPos),
    startWalk s c assured ia = .ok (.go p) → p.da % descBytes c.system = 0) ∧
  ∀ (c : WalkCfg) (p p' : WalkPos) (d : Desc) (mro : Bool) (ia : Nat),
    descStep c p d mro ia = .ok (.go p') → p'.da % descBytes c.system = 0

/-- R265, R266 and their siblings: a VMSAv8-64 final descriptor maps the IA bits of its page or block
directly and supplies the bits above; the OA has at most 48 bits, 52 with the 52-bit option. -/
def Obligations.Vmsav8OaIsDescriptorAboveIaBelow : Prop :=
  ∀ (g : Granule) (level : Int) (opt52 : Bool) (oab : PAddr) (ia : Nat),
    v8FinalOa g level opt52 oab ia % 2 ^ v8Lo g level = ia % 2 ^ v8Lo g level ∧
    v8FinalOa g level opt52 oab ia / 2 ^ v8Lo g level = oab.toNat % 2 ^ v8MaxOa opt52 / 2 ^ v8Lo g level ∧
    v8FinalOa g level opt52 oab ia < 2 ^ v8MaxOa opt52

/-- R171: at most sixteen tables are concatenated, and where any are, the base address keeps the bits above
their whole size. -/
def Obligations.ConcatenatedTablesAreAlignedWhole : Prop :=
  ∀ (c : WalkCfg) (level : Int), v8S2Start c = some level →
    v8S2Concat c.granule level c.sz ≤ 16 ∧
    (1 < v8S2Concat c.granule level c.sz →
      2 ^ v8X c.granule level true c.sz = v8S2Concat c.granule level c.sz * 2 ^ c.granule.bits)

/-- R421, R422, R506, R512: with stage 1 disabled and stage 2 not enabled, the only fault of a translation is an
Address size fault; an Alignment fault is one of the access. -/
def Obligations.DisabledStagesGiveOnlyAddressSizeFaults : Prop :=
  ∀ (s : State) (r : SysRegs) (force : Bool) (q : Request) (f : MmuFault),
    stage1Disabled s.launch r q.regime q.ss = true → stage2Enabled s.launch r q.regime q.ss = false →
    (attempt s r force q).2 = .mmu f → f.kind = .addressSize ∧ f.stage = .s1

/-- R428 as D33 reads it, and R424: HCR_EL2.DC disables stage 1 of EL1&0, gives its accesses Normal
Write-Back Non-shareable memory, and enables stage 2; no other regime heeds it. -/
def Obligations.DcDisablesStage1AndEnablesStage2 : Prop :=
  ∀ (l : Launch) (r : SysRegs) (ss : SecState) (g : Regime) (kind : AccessKind),
    el2Enabled l r ss = true → r.hcrEl2.dc = true →
    stage1Disabled l r .el10 ss = true ∧ stage2Enabled l r .el10 ss = true ∧
    disabledAttrs l r .el10 ss kind =
      .normal .writeBackReadWriteAlloc .writeBackReadWriteAlloc .nonShareable (some r.hcrEl2.dct)
        (if l.featXs then some false else none) ∧
    (g ≠ .el10 → stage1Disabled l r g ss = !(sctlrOf r g).m ∧ stage2Enabled l r g ss = false)

/-- R248, R249: the stage 2 translation of the initial stage 1 lookup gives the Permission fault of the
TopLevel checks in the rows of Tables D8-14 and D8-15 marked Yes, and in no other. -/
def Obligations.TopLevelChecksFault : Prop :=
  ∀ (e : WalkEnv) (ss : SecState) (upper assured : Bool) (ipa : Nat) (sp : Space) (d : StageOk)
    (row : Bool × Bool × Bool × Bool),
    (runStage e (stage2Cfg e.s.launch e.regs ss sp) placeOf ipa false false).2 = .ok d →
    e.s.launch.featThe = true →
    row = (e.regs.vtcrEl2.tl0, e.regs.vtcrEl2.tl1, d.topLevel0, d.topLevel1) →
    ((∃ level, (stage2 e ss (.tableRead true upper assured) ipa sp).2 =
        .mmu ⟨.permission, level, .s2, .topLevel⟩) ↔
      if upper then row = (true, false, true, false) ∨ (row.2.1 = true ∧ row.2.2.2 = false)
      else row = (false, true, false, true) ∨ (row.1 = true ∧ row.2.2.1 = false))

/-- R244, R245: the AssuredOnly check and the Guarded control stack check give a stage 2 Permission fault at
the level of the stage 2 descriptor: the first for every address stage 2 translates; both for the access of a
request, where stage 1 is disabled or its last level has not the property, and where the access is a
privileged Guarded control stack data access from EL1. -/
def Obligations.AssuredOnlyAndGcsChecksFault : Prop :=
  (∀ (e : WalkEnv) (ss : SecState) (use : S2Use) (ipa : Nat) (sp : Space) (d : StageOk),
    (runStage e (stage2Cfg e.s.launch e.regs ss sp) placeOf ipa false false).2 = .ok d →
    e.s.launch.featThe = true →
    assuredOnlyAttr e.s.launch e.regs d.assuredOnly = true → use.assured = false →
    ∃ cause, (stage2 e ss use ipa sp).2 = .mmu ⟨.permission, d.level, .s2, cause⟩) ∧
  ∀ (s : State) (r : SysRegs) (force : Bool) (q : Request) (o d : StageOk),
    s.launch.featThe = true → q.stage1Only = false → stage2Enabled s.launch r q.regime q.ss = true →
    (firstStage s r force q).2 = .ok o →
    (runStage (envOf s r force q) (stage2Cfg s.launch r q.ss o.space) placeOf o.oa false false).2 = .ok d →
    (assuredOnlyAttr s.launch r d.assuredOnly = true ∧
      (stage1Disabled s.launch r q.regime q.ss = true ∨ o.assured = false)) ∨
    (q.acc.gcs = true ∧ q.acc.privileged = true ∧ q.el = .el1 ∧ q.acc.kind ≠ .fetch ∧ r.vtcrEl2.gcsh = true ∧
      assuredOnlyAttr s.launch r d.assuredOnly = false) →
    ∃ cause, (attempt s r force q).2 = .mmu ⟨.permission, d.level, .s2, cause⟩

/-- R240: a level has the Assured Translation property only if every earlier level of the walk had it, each
Table descriptor on the way is Protected and was read through an IPA with the stage 2 MRO permission, and
the walk started with both stages enabled and TL0 or TL1 of its base register 1. Here: a walk from a position
never regains the property; a descriptor hands it on only so; the Protected bit it reads is the raw value's;
a place has MRO only from stage 2; and the first position has what R240 gives the start. -/
def Obligations.AssuredTranslationIsNeverRegained : Prop :=
  (∀ (e : WalkEnv) (c : WalkCfg) (place : WalkPos → Traced DescPlace) (ia n : Nat) (p : WalkPos) (r : StageOk),
    (walkLoop e c place ia n p).2 = .ok r → r.assured = true → p.assured = true) ∧
  (∀ (c : WalkCfg) (p p' : WalkPos) (d : Desc) (mro : Bool) (ia : Nat),
    descStep c p d mro ia = .ok (.go p') → p'.assured = true →
    p.assured = true ∧ c.protection = true ∧ mro = true ∧ ∃ t, d = .table t ∧ t.prot = true) ∧
  (∀ (l : Launch) (r : SysRegs) (x : DecodeCtx) (raw : Raw) (t : TableDesc), x.stage = .s1 →
    decodeDesc l r x raw = .table t → t.prot = rawProtected l x.system raw) ∧
  (∀ (e : WalkEnv) (c : WalkCfg) (p : WalkPos) (at_ : DescPlace),
    (stage1Place e c p).2 = .ok at_ → at_.mro = true →
    c.tableIsIpa = true ∧ ∃ d, (stage2 { e with ctx := p.level } c.ss (.tableRead p.first c.upper p.assured)
      p.da p.space).2 = .ok d ∧ d.mro = true) ∧
  ∀ (s : State) (l : Launch) (r : SysRegs) (g : Regime) (ss : SecState) (upper : Bool) (ia : Nat) (p : WalkPos),
    startWalk s (stage1Cfg l r g ss upper) (assuredAtStart l r g ss upper) ia = .ok (.go p) →
    (p.assured = true ↔ l.featThe = true ∧ g = .el10 ∧ stage1Disabled l r g ss = false ∧
      stage2Enabled l r g ss = true ∧ (if upper then r.vtcrEl2.tl1 else r.vtcrEl2.tl0) = true)
end

