-- ==== Sys2Proof/Laws/Memory.lean ====
section
/-! SUPPORT. The laws of memory: reading after writing, and the canonical form that every operation keeps. -/

namespace Sys2Proof.Machine

/-- A write leaves every other byte alone. -/
theorem memRead_memWrite_ne (m : List Host.Cell) {k j : Nat} (v : Byte) (h : j ≠ k) :
    memRead (memWrite m k v) j = memRead m j := by
  induction m with
  | nil => unfold memWrite; split <;> simp_all [memRead, Ne.symm h]
  | cons c rest ih =>
    obtain ⟨a, b⟩ := c
    unfold memWrite
    split
    · split <;> simp [memRead, Ne.symm h]
    · split
      · subst_vars; split <;> simp [memRead, Ne.symm h]
      · simp [memRead, ih]

/-- Below the first listed address nothing is listed. -/
theorem memRead_of_lt (m : List Host.Cell) (k : Nat) (hwf : Memory.wf m = true)
    (h : ∀ c ∈ m.head?, k < c.1) : memRead m k = memDefault := by
  induction m with
  | nil => rfl
  | cons c rest ih =>
    have hk : k < c.1 := h c rfl
    obtain ⟨a, b⟩ := c
    simp only [memRead]
    rw [if_neg (by simp at hk; omega)]
    cases rest with
    | nil => rfl
    | cons d rest =>
      simp only [Memory.wf, Bool.and_eq_true, decide_eq_true_eq] at hwf
      exact ih hwf.2 (by intro e he; simp at he; subst he; simp at hk; omega)

/-- The rest of a list in canonical form is in it. -/
theorem Memory.wf_tail {c : Host.Cell} {m : List Host.Cell} (h : Memory.wf (c :: m) = true) :
    Memory.wf m = true := by
  cases m with
  | nil => rfl
  | cons d rest => simp only [Memory.wf, Bool.and_eq_true] at h; exact h.2

/-- A write is read back. -/
theorem memRead_memWrite_same (m : List Host.Cell) (k : Nat) (v : Byte) (hwf : Memory.wf m = true) :
    memRead (memWrite m k v) k = v := by
  induction m with
  | nil => unfold memWrite; split <;> simp_all [memRead]
  | cons c rest ih =>
    obtain ⟨a, b⟩ := c
    unfold memWrite
    split
    · rename_i hlt
      split
      · subst_vars; exact memRead_of_lt _ _ hwf (by intro c hc; simp at hc; subst hc; exact hlt)
      · simp [memRead]
    · split
      · subst_vars
        split
        · subst_vars
          refine memRead_of_lt _ _ (Memory.wf_tail hwf) ?_
          intro c hc
          cases rest with
          | nil => simp at hc
          | cons d rest =>
            simp at hc; subst hc
            simp only [Memory.wf, Bool.and_eq_true, decide_eq_true_eq] at hwf
            exact hwf.1.1
        · simp [memRead]
      · rename_i hne
        simp [memRead, Ne.symm hne, ih (Memory.wf_tail hwf)]

/-- The canonical form of a list, by its first entry. -/
theorem Memory.wf_cons {c : Host.Cell} {m : List Host.Cell} (hm : Memory.wf m = true)
    (hc : c.2 ≠ memDefault) (hlt : ∀ d ∈ m.head?, c.1 < d.1) : Memory.wf (c :: m) = true := by
  cases m with
  | nil => simp [Memory.wf, hc]
  | cons d rest =>
    have := hlt d rfl
    simp [Memory.wf, hc, this, hm]

/-- The first entry after a write is the written one or the first one before. -/
theorem head_memWrite (m : List Host.Cell) (k a : Nat) (v : Byte) (hk : a < k)
    (h : ∀ d ∈ m.head?, a < d.1) (hwf : Memory.wf m = true) : ∀ d ∈ (memWrite m k v).head?, a < d.1 := by
  intro d hd
  cases m with
  | nil =>
    unfold memWrite at hd; split at hd
    · simp at hd
    · simp at hd; subst hd; exact hk
  | cons c rest =>
    have hc := h c rfl
    obtain ⟨b, w⟩ := c
    unfold memWrite at hd
    split at hd
    · split at hd
      · simp at hd; subst hd; exact hc
      · simp at hd; subst hd; exact hk
    · split at hd
      · split at hd
        · cases rest with
          | nil => simp at hd
          | cons e rest =>
            simp at hd; subst hd
            simp only [Memory.wf, Bool.and_eq_true, decide_eq_true_eq] at hwf
            exact lt_trans hc hwf.1.1
        · simp at hd; subst hd; exact hk
      · simp at hd; subst hd; exact hc

/-- What the first entry of a list in canonical form is. -/
theorem Memory.wf_head {c : Host.Cell} {m : List Host.Cell} (h : Memory.wf (c :: m) = true) :
    c.2 ≠ memDefault ∧ ∀ d ∈ m.head?, c.1 < d.1 := by
  cases m with
  | nil => simpa [Memory.wf] using h
  | cons d rest =>
    simp only [Memory.wf, Bool.and_eq_true, decide_eq_true_eq, bne_iff_ne] at h
    exact ⟨h.1.2, by intro e he; simp at he; subst he; exact h.1.1⟩

/-- A write keeps the canonical form. -/
theorem memWrite_wf (m : List Host.Cell) (k : Nat) (v : Byte) (hwf : Memory.wf m = true) :
    Memory.wf (memWrite m k v) = true := by
  induction m with
  | nil => unfold memWrite; split <;> simp_all [Memory.wf]
  | cons c rest ih =>
    have hh := Memory.wf_head hwf
    obtain ⟨a, b⟩ := c
    unfold memWrite
    split
    · rename_i hlt
      split
      · exact hwf
      · rename_i hv
        exact Memory.wf_cons hwf hv (by intro d hd; simp at hd; subst hd; exact hlt)
    · split
      · subst_vars
        split
        · exact Memory.wf_tail hwf
        · rename_i hv
          exact Memory.wf_cons (Memory.wf_tail hwf) hv hh.2
      · exact Memory.wf_cons (ih (Memory.wf_tail hwf)) hh.1
          (head_memWrite rest k a v (by omega) hh.2 (Memory.wf_tail hwf))

/-- Writing a list of bytes keeps the canonical form. -/
theorem memWriteCells_wf (m : List Host.Cell) (cs : List Host.Cell) (h : Memory.wf m = true) :
    Memory.wf (memWriteCells m cs) = true := by
  induction cs with
  | nil => exact h
  | cons c cs ih => exact memWrite_wf _ _ _ ih

/-- After a list of bytes is written a byte reads as the list gives it, and as before where it does not. -/
theorem memRead_memWriteCells (m : List Host.Cell) (cs : List Host.Cell) (k : Nat) (h : Memory.wf m = true) :
    memRead (memWriteCells m cs) k = (cellLookup cs k).getD (memRead m k) := by
  induction cs with
  | nil => rfl
  | cons c cs ih =>
    obtain ⟨a, b⟩ := c
    show memRead (memWrite (memWriteCells m cs) a b) k = (if a = k then some b else cellLookup cs k).getD _
    by_cases hk : a = k
    · subst hk
      rw [memRead_memWrite_same _ _ _ (memWriteCells_wf m cs h)]; simp
    · rw [memRead_memWrite_ne _ _ (Ne.symm hk), if_neg hk]; exact ih

/-- Committing writes keeps the canonical form. -/
theorem commitWrites_wf (m : List Host.Cell) (ws : List PendingWrite) (h : Memory.wf m = true) :
    Memory.wf (commitWrites m ws) = true := by
  induction ws generalizing m with
  | nil => exact h
  | cons w ws ih => exact ih _ (memWriteCells_wf _ _ h)

/-- A DSB keeps the canonical form. -/
theorem settle_wf (s : State) (ord : PendingWrite → Bool) (h : Memory.wf s.mem = true) :
    Memory.wf (s.settle ord).mem = true := commitWrites_wf _ _ h

/-- A write lists no address but the written one and those listed before. -/
theorem mem_of_mem_memWrite {m : List Host.Cell} {k : Nat} {v : Byte} {c : Host.Cell}
    (h : c ∈ memWrite m k v) : c.1 = k ∨ c ∈ m := by
  induction m with
  | nil =>
    unfold memWrite at h; split at h
    · simp at h
    · simp at h; subst h; exact .inl rfl
  | cons d rest ih =>
    obtain ⟨a, b⟩ := d
    unfold memWrite at h
    split at h
    · split at h
      · exact .inr h
      · rcases List.mem_cons.mp h with rfl | h
        · exact .inl rfl
        · exact .inr h
    · split at h
      · split at h
        · exact .inr (List.mem_cons_of_mem _ h)
        · rcases List.mem_cons.mp h with rfl | h
          · exact .inl rfl
          · exact .inr (List.mem_cons_of_mem _ h)
      · rcases List.mem_cons.mp h with rfl | h
        · exact .inr List.mem_cons_self
        · exact (ih h).imp id (List.mem_cons_of_mem _)

/-- The same for a list of bytes. -/
theorem mem_of_mem_memWriteCells {m cs : List Host.Cell} {c : Host.Cell} (h : c ∈ memWriteCells m cs) :
    (∃ d ∈ cs, d.1 = c.1) ∨ c ∈ m := by
  induction cs with
  | nil => exact .inr h
  | cons d cs ih =>
    rcases mem_of_mem_memWrite h with h' | h'
    · exact .inl ⟨d, List.mem_cons_self, h'.symm⟩
    · rcases ih h' with ⟨e, he, hee⟩ | h'
      · exact .inl ⟨e, List.mem_cons_of_mem _ he, hee⟩
      · exact .inr h'

/-- The keys of the cells that bytes occupy. -/
theorem mem_cellsFrom {bs : List Byte} {k : Nat} {c : Host.Cell} (h : c ∈ cellsFrom k bs) :
    k ≤ c.1 ∧ c.1 < k + bs.length := by
  induction bs generalizing k with
  | nil => simp [cellsFrom] at h
  | cons b bs ih =>
    simp only [cellsFrom, List.mem_cons] at h
    rcases h with rfl | h
    · simp
    · have := ih h; simp; omega

@[simp] theorem bytesOfValue_length (n v : Nat) : (bytesOfValue n v).length = n := by
  induction n generalizing v with
  | zero => rfl
  | succ n ih => simp [bytesOfValue, ih]

@[simp] theorem bytesOfDesc_length (ee : Bool) (n v : Nat) : (bytesOfDesc ee n v).length = n := by
  unfold bytesOfDesc; split <;> simp

theorem memory_wf_reset : Memory.wf State.reset.mem = true := rfl

/-- Placing a word for the next fetch keeps the canonical form. -/
theorem placeWord_wf (s : State) (k : Nat) (bs : List Byte) (h : Memory.wf s.mem = true) :
    Memory.wf (s.placeWord k bs).mem = true := memWriteCells_wf _ _ h

end Sys2Proof.Machine
end

