-- ==== Sys2Proof/Laws/State.lean ====
section
/-! SUPPORT. What each update of the state does to each field, true by definition. -/

namespace Sys2Proof.Machine

@[simp] theorem State.advancePc_launch (s : State) : (s.advancePc).launch = s.launch := rfl
@[simp] theorem State.advancePc_xs (s : State) : (s.advancePc).xs = s.xs := rfl
@[simp] theorem State.advancePc_pc (s : State) : (s.advancePc).pc = s.pc + 4 := rfl
@[simp] theorem State.advancePc_el (s : State) : (s.advancePc).el = s.el := rfl
@[simp] theorem State.advancePc_pan (s : State) : (s.advancePc).pan = s.pan := rfl
@[simp] theorem State.advancePc_regs (s : State) : (s.advancePc).regs = s.regs := rfl
@[simp] theorem State.advancePc_pendingRegs (s : State) : (s.advancePc).pendingRegs = s.pendingRegs := rfl
@[simp] theorem State.advancePc_par (s : State) : (s.advancePc).par = s.par := rfl
@[simp] theorem State.advancePc_parStale (s : State) : (s.advancePc).parStale = s.parStale := rfl
@[simp] theorem State.advancePc_mem (s : State) : (s.advancePc).mem = s.mem := rfl
@[simp] theorem State.advancePc_pendingWrites (s : State) : (s.advancePc).pendingWrites = s.pendingWrites := rfl
@[simp] theorem State.advancePc_softAccesses (s : State) : (s.advancePc).softAccesses = s.softAccesses := rfl
@[simp] theorem State.advancePc_tableReads (s : State) : (s.advancePc).tableReads = s.tableReads := rfl
@[simp] theorem State.advancePc_tlb (s : State) : (s.advancePc).tlb = s.tlb := rfl
@[simp] theorem State.advancePc_executed (s : State) : (s.advancePc).executed = s.executed := rfl
@[simp] theorem State.advancePc_branches (s : State) : (s.advancePc).branches = s.branches := rfl
@[simp] theorem State.advancePc_inputs (s : State) : (s.advancePc).inputs = s.inputs := rfl
@[simp] theorem State.advancePc_output (s : State) : (s.advancePc).output = s.output := rfl
@[simp] theorem State.advancePc_draws (s : State) : (s.advancePc).draws = s.draws := rfl

@[simp] theorem State.writePar_launch (s : State) (p : Par) : (s.writePar p).launch = s.launch := rfl
@[simp] theorem State.writePar_xs (s : State) (p : Par) : (s.writePar p).xs = s.xs := rfl
@[simp] theorem State.writePar_pc (s : State) (p : Par) : (s.writePar p).pc = s.pc := rfl
@[simp] theorem State.writePar_el (s : State) (p : Par) : (s.writePar p).el = s.el := rfl
@[simp] theorem State.writePar_pan (s : State) (p : Par) : (s.writePar p).pan = s.pan := rfl
@[simp] theorem State.writePar_regs (s : State) (p : Par) : (s.writePar p).regs = s.regs := rfl
@[simp] theorem State.writePar_pendingRegs (s : State) (p : Par) : (s.writePar p).pendingRegs = s.pendingRegs := rfl
@[simp] theorem State.writePar_par (s : State) (p : Par) : (s.writePar p).par = p := rfl
@[simp] theorem State.writePar_parStale (s : State) (p : Par) : (s.writePar p).parStale = s.par :: s.parStale := rfl
@[simp] theorem State.writePar_mem (s : State) (p : Par) : (s.writePar p).mem = s.mem := rfl
@[simp] theorem State.writePar_pendingWrites (s : State) (p : Par) : (s.writePar p).pendingWrites = s.pendingWrites := rfl
@[simp] theorem State.writePar_softAccesses (s : State) (p : Par) : (s.writePar p).softAccesses = s.softAccesses := rfl
@[simp] theorem State.writePar_tableReads (s : State) (p : Par) : (s.writePar p).tableReads = s.tableReads := rfl
@[simp] theorem State.writePar_tlb (s : State) (p : Par) : (s.writePar p).tlb = s.tlb := rfl
@[simp] theorem State.writePar_executed (s : State) (p : Par) : (s.writePar p).executed = s.executed := rfl
@[simp] theorem State.writePar_branches (s : State) (p : Par) : (s.writePar p).branches = s.branches := rfl
@[simp] theorem State.writePar_inputs (s : State) (p : Par) : (s.writePar p).inputs = s.inputs := rfl
@[simp] theorem State.writePar_output (s : State) (p : Par) : (s.writePar p).output = s.output := rfl
@[simp] theorem State.writePar_draws (s : State) (p : Par) : (s.writePar p).draws = s.draws := rfl

@[simp] theorem State.bumpDraws_launch (s : State) : (s.bumpDraws).launch = s.launch := rfl
@[simp] theorem State.bumpDraws_xs (s : State) : (s.bumpDraws).xs = s.xs := rfl
@[simp] theorem State.bumpDraws_pc (s : State) : (s.bumpDraws).pc = s.pc := rfl
@[simp] theorem State.bumpDraws_el (s : State) : (s.bumpDraws).el = s.el := rfl
@[simp] theorem State.bumpDraws_pan (s : State) : (s.bumpDraws).pan = s.pan := rfl
@[simp] theorem State.bumpDraws_regs (s : State) : (s.bumpDraws).regs = s.regs := rfl
@[simp] theorem State.bumpDraws_pendingRegs (s : State) : (s.bumpDraws).pendingRegs = s.pendingRegs := rfl
@[simp] theorem State.bumpDraws_par (s : State) : (s.bumpDraws).par = s.par := rfl
@[simp] theorem State.bumpDraws_parStale (s : State) : (s.bumpDraws).parStale = s.parStale := rfl
@[simp] theorem State.bumpDraws_mem (s : State) : (s.bumpDraws).mem = s.mem := rfl
@[simp] theorem State.bumpDraws_pendingWrites (s : State) : (s.bumpDraws).pendingWrites = s.pendingWrites := rfl
@[simp] theorem State.bumpDraws_softAccesses (s : State) : (s.bumpDraws).softAccesses = s.softAccesses := rfl
@[simp] theorem State.bumpDraws_tableReads (s : State) : (s.bumpDraws).tableReads = s.tableReads := rfl
@[simp] theorem State.bumpDraws_tlb (s : State) : (s.bumpDraws).tlb = s.tlb := rfl
@[simp] theorem State.bumpDraws_executed (s : State) : (s.bumpDraws).executed = s.executed := rfl
@[simp] theorem State.bumpDraws_branches (s : State) : (s.bumpDraws).branches = s.branches := rfl
@[simp] theorem State.bumpDraws_inputs (s : State) : (s.bumpDraws).inputs = s.inputs := rfl
@[simp] theorem State.bumpDraws_output (s : State) : (s.bumpDraws).output = s.output := rfl
@[simp] theorem State.bumpDraws_draws (s : State) : (s.bumpDraws).draws = s.draws + 1 := rfl

@[simp] theorem State.answer_launch (s : State) (o : Output) : (s.answer o).launch = s.launch := rfl
@[simp] theorem State.answer_xs (s : State) (o : Output) : (s.answer o).xs = s.xs := rfl
@[simp] theorem State.answer_pc (s : State) (o : Output) : (s.answer o).pc = s.pc := rfl
@[simp] theorem State.answer_el (s : State) (o : Output) : (s.answer o).el = s.el := rfl
@[simp] theorem State.answer_pan (s : State) (o : Output) : (s.answer o).pan = s.pan := rfl
@[simp] theorem State.answer_regs (s : State) (o : Output) : (s.answer o).regs = s.regs := rfl
@[simp] theorem State.answer_pendingRegs (s : State) (o : Output) : (s.answer o).pendingRegs = s.pendingRegs := rfl
@[simp] theorem State.answer_par (s : State) (o : Output) : (s.answer o).par = s.par := rfl
@[simp] theorem State.answer_parStale (s : State) (o : Output) : (s.answer o).parStale = s.parStale := rfl
@[simp] theorem State.answer_mem (s : State) (o : Output) : (s.answer o).mem = s.mem := rfl
@[simp] theorem State.answer_pendingWrites (s : State) (o : Output) : (s.answer o).pendingWrites = s.pendingWrites := rfl
@[simp] theorem State.answer_softAccesses (s : State) (o : Output) : (s.answer o).softAccesses = s.softAccesses := rfl
@[simp] theorem State.answer_tableReads (s : State) (o : Output) : (s.answer o).tableReads = s.tableReads := rfl
@[simp] theorem State.answer_tlb (s : State) (o : Output) : (s.answer o).tlb = s.tlb := rfl
@[simp] theorem State.answer_executed (s : State) (o : Output) : (s.answer o).executed = s.executed := rfl
@[simp] theorem State.answer_branches (s : State) (o : Output) : (s.answer o).branches = s.branches := rfl
@[simp] theorem State.answer_inputs (s : State) (o : Output) : (s.answer o).inputs = s.inputs := rfl
@[simp] theorem State.answer_output (s : State) (o : Output) : (s.answer o).output = o := rfl
@[simp] theorem State.answer_draws (s : State) (o : Output) : (s.answer o).draws = s.draws := rfl

@[simp] theorem State.addWrite_launch (s : State) (w : PendingWrite) : (s.addWrite w).launch = s.launch := rfl
@[simp] theorem State.addWrite_xs (s : State) (w : PendingWrite) : (s.addWrite w).xs = s.xs := rfl
@[simp] theorem State.addWrite_pc (s : State) (w : PendingWrite) : (s.addWrite w).pc = s.pc := rfl
@[simp] theorem State.addWrite_el (s : State) (w : PendingWrite) : (s.addWrite w).el = s.el := rfl
@[simp] theorem State.addWrite_pan (s : State) (w : PendingWrite) : (s.addWrite w).pan = s.pan := rfl
@[simp] theorem State.addWrite_regs (s : State) (w : PendingWrite) : (s.addWrite w).regs = s.regs := rfl
@[simp] theorem State.addWrite_pendingRegs (s : State) (w : PendingWrite) : (s.addWrite w).pendingRegs = s.pendingRegs := rfl
@[simp] theorem State.addWrite_par (s : State) (w : PendingWrite) : (s.addWrite w).par = s.par := rfl
@[simp] theorem State.addWrite_parStale (s : State) (w : PendingWrite) : (s.addWrite w).parStale = s.parStale := rfl
@[simp] theorem State.addWrite_mem (s : State) (w : PendingWrite) : (s.addWrite w).mem = s.mem := rfl
@[simp] theorem State.addWrite_pendingWrites (s : State) (w : PendingWrite) : (s.addWrite w).pendingWrites = s.pendingWrites ++ [w] := rfl
@[simp] theorem State.addWrite_softAccesses (s : State) (w : PendingWrite) : (s.addWrite w).softAccesses = s.softAccesses := rfl
@[simp] theorem State.addWrite_tableReads (s : State) (w : PendingWrite) : (s.addWrite w).tableReads = s.tableReads := rfl
@[simp] theorem State.addWrite_tlb (s : State) (w : PendingWrite) : (s.addWrite w).tlb = s.tlb := rfl
@[simp] theorem State.addWrite_executed (s : State) (w : PendingWrite) : (s.addWrite w).executed = s.executed := rfl
@[simp] theorem State.addWrite_branches (s : State) (w : PendingWrite) : (s.addWrite w).branches = s.branches := rfl
@[simp] theorem State.addWrite_inputs (s : State) (w : PendingWrite) : (s.addWrite w).inputs = s.inputs := rfl
@[simp] theorem State.addWrite_output (s : State) (w : PendingWrite) : (s.addWrite w).output = s.output := rfl
@[simp] theorem State.addWrite_draws (s : State) (w : PendingWrite) : (s.addWrite w).draws = s.draws := rfl

@[simp] theorem State.noteSoft_launch (s : State) (k n : Nat) (a : Attrs) (b : Bool) : (s.noteSoft k n a b).launch = s.launch := rfl
@[simp] theorem State.noteSoft_xs (s : State) (k n : Nat) (a : Attrs) (b : Bool) : (s.noteSoft k n a b).xs = s.xs := rfl
@[simp] theorem State.noteSoft_pc (s : State) (k n : Nat) (a : Attrs) (b : Bool) : (s.noteSoft k n a b).pc = s.pc := rfl
@[simp] theorem State.noteSoft_el (s : State) (k n : Nat) (a : Attrs) (b : Bool) : (s.noteSoft k n a b).el = s.el := rfl
@[simp] theorem State.noteSoft_pan (s : State) (k n : Nat) (a : Attrs) (b : Bool) : (s.noteSoft k n a b).pan = s.pan := rfl
@[simp] theorem State.noteSoft_regs (s : State) (k n : Nat) (a : Attrs) (b : Bool) : (s.noteSoft k n a b).regs = s.regs := rfl
@[simp] theorem State.noteSoft_pendingRegs (s : State) (k n : Nat) (a : Attrs) (b : Bool) : (s.noteSoft k n a b).pendingRegs = s.pendingRegs := rfl
@[simp] theorem State.noteSoft_par (s : State) (k n : Nat) (a : Attrs) (b : Bool) : (s.noteSoft k n a b).par = s.par := rfl
@[simp] theorem State.noteSoft_parStale (s : State) (k n : Nat) (a : Attrs) (b : Bool) : (s.noteSoft k n a b).parStale = s.parStale := rfl
@[simp] theorem State.noteSoft_mem (s : State) (k n : Nat) (a : Attrs) (b : Bool) : (s.noteSoft k n a b).mem = s.mem := rfl
@[simp] theorem State.noteSoft_pendingWrites (s : State) (k n : Nat) (a : Attrs) (b : Bool) : (s.noteSoft k n a b).pendingWrites = s.pendingWrites := rfl
@[simp] theorem State.noteSoft_softAccesses (s : State) (k n : Nat) (a : Attrs) (b : Bool) : (s.noteSoft k n a b).softAccesses = { key := k, bytes := n, attrs := a, written := b } :: s.softAccesses := rfl
@[simp] theorem State.noteSoft_tableReads (s : State) (k n : Nat) (a : Attrs) (b : Bool) : (s.noteSoft k n a b).tableReads = s.tableReads := rfl
@[simp] theorem State.noteSoft_tlb (s : State) (k n : Nat) (a : Attrs) (b : Bool) : (s.noteSoft k n a b).tlb = s.tlb := rfl
@[simp] theorem State.noteSoft_executed (s : State) (k n : Nat) (a : Attrs) (b : Bool) : (s.noteSoft k n a b).executed = s.executed := rfl
@[simp] theorem State.noteSoft_branches (s : State) (k n : Nat) (a : Attrs) (b : Bool) : (s.noteSoft k n a b).branches = s.branches := rfl
@[simp] theorem State.noteSoft_inputs (s : State) (k n : Nat) (a : Attrs) (b : Bool) : (s.noteSoft k n a b).inputs = s.inputs := rfl
@[simp] theorem State.noteSoft_output (s : State) (k n : Nat) (a : Attrs) (b : Bool) : (s.noteSoft k n a b).output = s.output := rfl
@[simp] theorem State.noteSoft_draws (s : State) (k n : Nat) (a : Attrs) (b : Bool) : (s.noteSoft k n a b).draws = s.draws := rfl

@[simp] theorem State.noteRead_launch (s : State) (k n : Nat) (simd : Bool) : (s.noteRead k n simd).launch = s.launch := rfl
@[simp] theorem State.noteRead_xs (s : State) (k n : Nat) (simd : Bool) : (s.noteRead k n simd).xs = s.xs := rfl
@[simp] theorem State.noteRead_pc (s : State) (k n : Nat) (simd : Bool) : (s.noteRead k n simd).pc = s.pc := rfl
@[simp] theorem State.noteRead_el (s : State) (k n : Nat) (simd : Bool) : (s.noteRead k n simd).el = s.el := rfl
@[simp] theorem State.noteRead_pan (s : State) (k n : Nat) (simd : Bool) : (s.noteRead k n simd).pan = s.pan := rfl
@[simp] theorem State.noteRead_regs (s : State) (k n : Nat) (simd : Bool) : (s.noteRead k n simd).regs = s.regs := rfl
@[simp] theorem State.noteRead_pendingRegs (s : State) (k n : Nat) (simd : Bool) : (s.noteRead k n simd).pendingRegs = s.pendingRegs := rfl
@[simp] theorem State.noteRead_par (s : State) (k n : Nat) (simd : Bool) : (s.noteRead k n simd).par = s.par := rfl
@[simp] theorem State.noteRead_parStale (s : State) (k n : Nat) (simd : Bool) : (s.noteRead k n simd).parStale = s.parStale := rfl
@[simp] theorem State.noteRead_mem (s : State) (k n : Nat) (simd : Bool) : (s.noteRead k n simd).mem = s.mem := rfl
@[simp] theorem State.noteRead_pendingWrites (s : State) (k n : Nat) (simd : Bool) : (s.noteRead k n simd).pendingWrites = if simd then s.pendingWrites else markRead k n s.pendingWrites := rfl
@[simp] theorem State.noteRead_softAccesses (s : State) (k n : Nat) (simd : Bool) : (s.noteRead k n simd).softAccesses = s.softAccesses := rfl
@[simp] theorem State.noteRead_tableReads (s : State) (k n : Nat) (simd : Bool) : (s.noteRead k n simd).tableReads = s.tableReads := rfl
@[simp] theorem State.noteRead_tlb (s : State) (k n : Nat) (simd : Bool) : (s.noteRead k n simd).tlb = s.tlb := rfl
@[simp] theorem State.noteRead_executed (s : State) (k n : Nat) (simd : Bool) : (s.noteRead k n simd).executed = s.executed := rfl
@[simp] theorem State.noteRead_branches (s : State) (k n : Nat) (simd : Bool) : (s.noteRead k n simd).branches = s.branches := rfl
@[simp] theorem State.noteRead_inputs (s : State) (k n : Nat) (simd : Bool) : (s.noteRead k n simd).inputs = s.inputs := rfl
@[simp] theorem State.noteRead_output (s : State) (k n : Nat) (simd : Bool) : (s.noteRead k n simd).output = s.output := rfl
@[simp] theorem State.noteRead_draws (s : State) (k n : Nat) (simd : Bool) : (s.noteRead k n simd).draws = s.draws := rfl

@[simp] theorem State.noteExecuted_launch (s : State) : (s.noteExecuted).launch = s.launch := rfl
@[simp] theorem State.noteExecuted_xs (s : State) : (s.noteExecuted).xs = s.xs := rfl
@[simp] theorem State.noteExecuted_pc (s : State) : (s.noteExecuted).pc = s.pc := rfl
@[simp] theorem State.noteExecuted_el (s : State) : (s.noteExecuted).el = s.el := rfl
@[simp] theorem State.noteExecuted_pan (s : State) : (s.noteExecuted).pan = s.pan := rfl
@[simp] theorem State.noteExecuted_regs (s : State) : (s.noteExecuted).regs = s.regs := rfl
@[simp] theorem State.noteExecuted_pendingRegs (s : State) : (s.noteExecuted).pendingRegs = s.pendingRegs := rfl
@[simp] theorem State.noteExecuted_par (s : State) : (s.noteExecuted).par = s.par := rfl
@[simp] theorem State.noteExecuted_parStale (s : State) : (s.noteExecuted).parStale = s.parStale := rfl
@[simp] theorem State.noteExecuted_mem (s : State) : (s.noteExecuted).mem = s.mem := rfl
@[simp] theorem State.noteExecuted_pendingWrites (s : State) : (s.noteExecuted).pendingWrites = s.pendingWrites := rfl
@[simp] theorem State.noteExecuted_softAccesses (s : State) : (s.noteExecuted).softAccesses = s.softAccesses := rfl
@[simp] theorem State.noteExecuted_tableReads (s : State) : (s.noteExecuted).tableReads = s.tableReads := rfl
@[simp] theorem State.noteExecuted_tlb (s : State) : (s.noteExecuted).tlb = s.tlb := rfl
@[simp] theorem State.noteExecuted_branches (s : State) : (s.noteExecuted).branches = s.branches := rfl
@[simp] theorem State.noteExecuted_inputs (s : State) : (s.noteExecuted).inputs = s.inputs := rfl
@[simp] theorem State.noteExecuted_output (s : State) : (s.noteExecuted).output = s.output := rfl
@[simp] theorem State.noteExecuted_draws (s : State) : (s.noteExecuted).draws = s.draws := rfl

@[simp] theorem State.settle_launch (s : State) (sel : PendingWrite → Bool) : (s.settle sel).launch = s.launch := rfl
@[simp] theorem State.settle_xs (s : State) (sel : PendingWrite → Bool) : (s.settle sel).xs = s.xs := rfl
@[simp] theorem State.settle_pc (s : State) (sel : PendingWrite → Bool) : (s.settle sel).pc = s.pc := rfl
@[simp] theorem State.settle_el (s : State) (sel : PendingWrite → Bool) : (s.settle sel).el = s.el := rfl
@[simp] theorem State.settle_pan (s : State) (sel : PendingWrite → Bool) : (s.settle sel).pan = s.pan := rfl
@[simp] theorem State.settle_regs (s : State) (sel : PendingWrite → Bool) : (s.settle sel).regs = s.regs := rfl
@[simp] theorem State.settle_pendingRegs (s : State) (sel : PendingWrite → Bool) : (s.settle sel).pendingRegs = s.pendingRegs := rfl
@[simp] theorem State.settle_par (s : State) (sel : PendingWrite → Bool) : (s.settle sel).par = s.par := rfl
@[simp] theorem State.settle_parStale (s : State) (sel : PendingWrite → Bool) : (s.settle sel).parStale = s.parStale := rfl
@[simp] theorem State.settle_mem (s : State) (sel : PendingWrite → Bool) : (s.settle sel).mem = commitWrites s.mem (orderedPart sel s.pendingWrites) := rfl
@[simp] theorem State.settle_pendingWrites (s : State) (sel : PendingWrite → Bool) : (s.settle sel).pendingWrites = ((openPart sel s.pendingWrites).filter fun w => !w.cells.isEmpty).map (PendingWrite.settleBy sel) := rfl
@[simp] theorem State.settle_softAccesses (s : State) (sel : PendingWrite → Bool) : (s.settle sel).softAccesses = s.softAccesses := rfl
@[simp] theorem State.settle_tableReads (s : State) (sel : PendingWrite → Bool) : (s.settle sel).tableReads = s.tableReads := rfl
@[simp] theorem State.settle_tlb (s : State) (sel : PendingWrite → Bool) : (s.settle sel).tlb = s.tlb := rfl
@[simp] theorem State.settle_executed (s : State) (sel : PendingWrite → Bool) : (s.settle sel).executed = s.executed := rfl
@[simp] theorem State.settle_branches (s : State) (sel : PendingWrite → Bool) : (s.settle sel).branches = s.branches := rfl
@[simp] theorem State.settle_inputs (s : State) (sel : PendingWrite → Bool) : (s.settle sel).inputs = s.inputs := rfl
@[simp] theorem State.settle_output (s : State) (sel : PendingWrite → Bool) : (s.settle sel).output = s.output := rfl
@[simp] theorem State.settle_draws (s : State) (sel : PendingWrite → Bool) : (s.settle sel).draws = s.draws := rfl

@[simp] theorem State.sync_launch (s : State) : (s.sync).launch = s.launch := rfl
@[simp] theorem State.sync_xs (s : State) : (s.sync).xs = s.xs := rfl
@[simp] theorem State.sync_pc (s : State) : (s.sync).pc = s.pc := rfl
@[simp] theorem State.sync_el (s : State) : (s.sync).el = s.el := rfl
@[simp] theorem State.sync_pan (s : State) : (s.sync).pan = s.pan := rfl
@[simp] theorem State.sync_regs (s : State) : (s.sync).regs = syncedRegs s := rfl
@[simp] theorem State.sync_pendingRegs (s : State) : (s.sync).pendingRegs = [] := rfl
@[simp] theorem State.sync_par (s : State) : (s.sync).par = s.par := rfl
@[simp] theorem State.sync_parStale (s : State) : (s.sync).parStale = [] := rfl
@[simp] theorem State.sync_mem (s : State) : (s.sync).mem = s.mem := rfl
@[simp] theorem State.sync_pendingWrites (s : State) : (s.sync).pendingWrites = s.pendingWrites := rfl
@[simp] theorem State.sync_softAccesses (s : State) : (s.sync).softAccesses = s.softAccesses := rfl
@[simp] theorem State.sync_tableReads (s : State) : (s.sync).tableReads = s.tableReads := rfl
@[simp] theorem State.sync_tlb (s : State) : (s.sync).tlb = s.tlb := rfl
@[simp] theorem State.sync_executed (s : State) : (s.sync).executed = s.executed := rfl
@[simp] theorem State.sync_branches (s : State) : (s.sync).branches = s.branches := rfl
@[simp] theorem State.sync_inputs (s : State) : (s.sync).inputs = s.inputs := rfl
@[simp] theorem State.sync_output (s : State) : (s.sync).output = s.output := rfl
@[simp] theorem State.sync_draws (s : State) : (s.sync).draws = s.draws := rfl

@[simp] theorem State.directWrite_launch (s : State) (w : SysWrite) : (s.directWrite w).launch = s.launch := rfl
@[simp] theorem State.directWrite_xs (s : State) (w : SysWrite) : (s.directWrite w).xs = s.xs := rfl
@[simp] theorem State.directWrite_pc (s : State) (w : SysWrite) : (s.directWrite w).pc = s.pc := rfl
@[simp] theorem State.directWrite_el (s : State) (w : SysWrite) : (s.directWrite w).el = s.el := rfl
@[simp] theorem State.directWrite_pan (s : State) (w : SysWrite) : (s.directWrite w).pan = s.pan := rfl
@[simp] theorem State.directWrite_regs (s : State) (w : SysWrite) : (s.directWrite w).regs = s.regs := rfl
@[simp] theorem State.directWrite_pendingRegs (s : State) (w : SysWrite) : (s.directWrite w).pendingRegs = s.pendingRegs ++ [w] := rfl
@[simp] theorem State.directWrite_par (s : State) (w : SysWrite) : (s.directWrite w).par = s.par := rfl
@[simp] theorem State.directWrite_parStale (s : State) (w : SysWrite) : (s.directWrite w).parStale = s.parStale := rfl
@[simp] theorem State.directWrite_mem (s : State) (w : SysWrite) : (s.directWrite w).mem = s.mem := rfl
@[simp] theorem State.directWrite_pendingWrites (s : State) (w : SysWrite) : (s.directWrite w).pendingWrites = s.pendingWrites := rfl
@[simp] theorem State.directWrite_softAccesses (s : State) (w : SysWrite) : (s.directWrite w).softAccesses = s.softAccesses := rfl
@[simp] theorem State.directWrite_tableReads (s : State) (w : SysWrite) : (s.directWrite w).tableReads = s.tableReads := rfl
@[simp] theorem State.directWrite_tlb (s : State) (w : SysWrite) : (s.directWrite w).tlb = s.tlb := rfl
@[simp] theorem State.directWrite_executed (s : State) (w : SysWrite) : (s.directWrite w).executed = s.executed := rfl
@[simp] theorem State.directWrite_branches (s : State) (w : SysWrite) : (s.directWrite w).branches = s.branches := rfl
@[simp] theorem State.directWrite_inputs (s : State) (w : SysWrite) : (s.directWrite w).inputs = s.inputs := rfl
@[simp] theorem State.directWrite_output (s : State) (w : SysWrite) : (s.directWrite w).output = s.output := rfl
@[simp] theorem State.directWrite_draws (s : State) (w : SysWrite) : (s.directWrite w).draws = s.draws := rfl

@[simp] theorem State.branch_launch (s : State) (t : BitVec 62) : (s.branch t).launch = s.launch := rfl
@[simp] theorem State.branch_xs (s : State) (t : BitVec 62) : (s.branch t).xs = s.xs := rfl
@[simp] theorem State.branch_pc (s : State) (t : BitVec 62) : (s.branch t).pc = wordAddress t := rfl
@[simp] theorem State.branch_el (s : State) (t : BitVec 62) : (s.branch t).el = s.el := rfl
@[simp] theorem State.branch_pan (s : State) (t : BitVec 62) : (s.branch t).pan = s.pan := rfl
@[simp] theorem State.branch_regs (s : State) (t : BitVec 62) : (s.branch t).regs = s.regs := rfl
@[simp] theorem State.branch_pendingRegs (s : State) (t : BitVec 62) : (s.branch t).pendingRegs = s.pendingRegs := rfl
@[simp] theorem State.branch_par (s : State) (t : BitVec 62) : (s.branch t).par = s.par := rfl
@[simp] theorem State.branch_parStale (s : State) (t : BitVec 62) : (s.branch t).parStale = s.parStale := rfl
@[simp] theorem State.branch_mem (s : State) (t : BitVec 62) : (s.branch t).mem = s.mem := rfl
@[simp] theorem State.branch_pendingWrites (s : State) (t : BitVec 62) : (s.branch t).pendingWrites = s.pendingWrites := rfl
@[simp] theorem State.branch_softAccesses (s : State) (t : BitVec 62) : (s.branch t).softAccesses = s.softAccesses := rfl
@[simp] theorem State.branch_tableReads (s : State) (t : BitVec 62) : (s.branch t).tableReads = s.tableReads := rfl
@[simp] theorem State.branch_tlb (s : State) (t : BitVec 62) : (s.branch t).tlb = s.tlb := rfl
@[simp] theorem State.branch_executed (s : State) (t : BitVec 62) : (s.branch t).executed = s.noteExecuted.executed := rfl
@[simp] theorem State.branch_branches (s : State) (t : BitVec 62) : (s.branch t).branches = (s.pc.toNat, (wordAddress t).toNat) :: s.branches := rfl
@[simp] theorem State.branch_inputs (s : State) (t : BitVec 62) : (s.branch t).inputs = s.inputs := rfl
@[simp] theorem State.branch_output (s : State) (t : BitVec 62) : (s.branch t).output = s.output := rfl
@[simp] theorem State.branch_draws (s : State) (t : BitVec 62) : (s.branch t).draws = s.draws := rfl

@[simp] theorem State.forgetBranches_launch (s : State) (v : Word) : (s.forgetBranches v).launch = s.launch := rfl
@[simp] theorem State.forgetBranches_xs (s : State) (v : Word) : (s.forgetBranches v).xs = s.xs := rfl
@[simp] theorem State.forgetBranches_pc (s : State) (v : Word) : (s.forgetBranches v).pc = s.pc := rfl
@[simp] theorem State.forgetBranches_el (s : State) (v : Word) : (s.forgetBranches v).el = s.el := rfl
@[simp] theorem State.forgetBranches_pan (s : State) (v : Word) : (s.forgetBranches v).pan = s.pan := rfl
@[simp] theorem State.forgetBranches_regs (s : State) (v : Word) : (s.forgetBranches v).regs = s.regs := rfl
@[simp] theorem State.forgetBranches_pendingRegs (s : State) (v : Word) : (s.forgetBranches v).pendingRegs = s.pendingRegs := rfl
@[simp] theorem State.forgetBranches_par (s : State) (v : Word) : (s.forgetBranches v).par = s.par := rfl
@[simp] theorem State.forgetBranches_parStale (s : State) (v : Word) : (s.forgetBranches v).parStale = s.parStale := rfl
@[simp] theorem State.forgetBranches_mem (s : State) (v : Word) : (s.forgetBranches v).mem = s.mem := rfl
@[simp] theorem State.forgetBranches_pendingWrites (s : State) (v : Word) : (s.forgetBranches v).pendingWrites = s.pendingWrites := rfl
@[simp] theorem State.forgetBranches_softAccesses (s : State) (v : Word) : (s.forgetBranches v).softAccesses = s.softAccesses := rfl
@[simp] theorem State.forgetBranches_tableReads (s : State) (v : Word) : (s.forgetBranches v).tableReads = s.tableReads := rfl
@[simp] theorem State.forgetBranches_tlb (s : State) (v : Word) : (s.forgetBranches v).tlb = s.tlb := rfl
@[simp] theorem State.forgetBranches_executed (s : State) (v : Word) : (s.forgetBranches v).executed = s.executed := rfl
@[simp] theorem State.forgetBranches_branches (s : State) (v : Word) : (s.forgetBranches v).branches = s.branches.filter fun b => b.1 != v.toNat := rfl
@[simp] theorem State.forgetBranches_inputs (s : State) (v : Word) : (s.forgetBranches v).inputs = s.inputs := rfl
@[simp] theorem State.forgetBranches_output (s : State) (v : Word) : (s.forgetBranches v).output = s.output := rfl
@[simp] theorem State.forgetBranches_draws (s : State) (v : Word) : (s.forgetBranches v).draws = s.draws := rfl

@[simp] theorem State.setX_launch (s : State) (t : Fin 31) (v : Word) : (s.setX t v).launch = s.launch := rfl
@[simp] theorem State.setX_xs (s : State) (t : Fin 31) (v : Word) : (s.setX t v).xs = s.xs.set t v := rfl
@[simp] theorem State.setX_pc (s : State) (t : Fin 31) (v : Word) : (s.setX t v).pc = s.pc := rfl
@[simp] theorem State.setX_el (s : State) (t : Fin 31) (v : Word) : (s.setX t v).el = s.el := rfl
@[simp] theorem State.setX_pan (s : State) (t : Fin 31) (v : Word) : (s.setX t v).pan = s.pan := rfl
@[simp] theorem State.setX_regs (s : State) (t : Fin 31) (v : Word) : (s.setX t v).regs = s.regs := rfl
@[simp] theorem State.setX_pendingRegs (s : State) (t : Fin 31) (v : Word) : (s.setX t v).pendingRegs = s.pendingRegs := rfl
@[simp] theorem State.setX_par (s : State) (t : Fin 31) (v : Word) : (s.setX t v).par = s.par := rfl
@[simp] theorem State.setX_parStale (s : State) (t : Fin 31) (v : Word) : (s.setX t v).parStale = s.parStale := rfl
@[simp] theorem State.setX_mem (s : State) (t : Fin 31) (v : Word) : (s.setX t v).mem = s.mem := rfl
@[simp] theorem State.setX_pendingWrites (s : State) (t : Fin 31) (v : Word) : (s.setX t v).pendingWrites = s.pendingWrites := rfl
@[simp] theorem State.setX_softAccesses (s : State) (t : Fin 31) (v : Word) : (s.setX t v).softAccesses = s.softAccesses := rfl
@[simp] theorem State.setX_tableReads (s : State) (t : Fin 31) (v : Word) : (s.setX t v).tableReads = s.tableReads := rfl
@[simp] theorem State.setX_tlb (s : State) (t : Fin 31) (v : Word) : (s.setX t v).tlb = s.tlb := rfl
@[simp] theorem State.setX_executed (s : State) (t : Fin 31) (v : Word) : (s.setX t v).executed = s.executed := rfl
@[simp] theorem State.setX_branches (s : State) (t : Fin 31) (v : Word) : (s.setX t v).branches = s.branches := rfl
@[simp] theorem State.setX_inputs (s : State) (t : Fin 31) (v : Word) : (s.setX t v).inputs = s.inputs := rfl
@[simp] theorem State.setX_output (s : State) (t : Fin 31) (v : Word) : (s.setX t v).output = s.output := rfl
@[simp] theorem State.setX_draws (s : State) (t : Fin 31) (v : Word) : (s.setX t v).draws = s.draws := rfl

@[simp] theorem State.placeWord_launch (s : State) (k : Nat) (bs : List Byte) : (s.placeWord k bs).launch = s.launch := rfl
@[simp] theorem State.placeWord_xs (s : State) (k : Nat) (bs : List Byte) : (s.placeWord k bs).xs = s.xs := rfl
@[simp] theorem State.placeWord_pc (s : State) (k : Nat) (bs : List Byte) : (s.placeWord k bs).pc = s.pc := rfl
@[simp] theorem State.placeWord_el (s : State) (k : Nat) (bs : List Byte) : (s.placeWord k bs).el = s.el := rfl
@[simp] theorem State.placeWord_pan (s : State) (k : Nat) (bs : List Byte) : (s.placeWord k bs).pan = s.pan := rfl
@[simp] theorem State.placeWord_regs (s : State) (k : Nat) (bs : List Byte) : (s.placeWord k bs).regs = s.regs := rfl
@[simp] theorem State.placeWord_pendingRegs (s : State) (k : Nat) (bs : List Byte) : (s.placeWord k bs).pendingRegs = s.pendingRegs := rfl
@[simp] theorem State.placeWord_par (s : State) (k : Nat) (bs : List Byte) : (s.placeWord k bs).par = s.par := rfl
@[simp] theorem State.placeWord_parStale (s : State) (k : Nat) (bs : List Byte) : (s.placeWord k bs).parStale = s.parStale := rfl
@[simp] theorem State.placeWord_mem (s : State) (k : Nat) (bs : List Byte) : (s.placeWord k bs).mem = storeBytes s.mem k bs := rfl
@[simp] theorem State.placeWord_pendingWrites (s : State) (k : Nat) (bs : List Byte) : (s.placeWord k bs).pendingWrites = s.pendingWrites.filter fun w => !w.overlaps k 4 := rfl
@[simp] theorem State.placeWord_softAccesses (s : State) (k : Nat) (bs : List Byte) : (s.placeWord k bs).softAccesses = s.softAccesses.filter fun a => !a.overlaps k 4 := rfl
@[simp] theorem State.placeWord_tableReads (s : State) (k : Nat) (bs : List Byte) : (s.placeWord k bs).tableReads = s.tableReads := rfl
@[simp] theorem State.placeWord_tlb (s : State) (k : Nat) (bs : List Byte) : (s.placeWord k bs).tlb = s.tlb := rfl
@[simp] theorem State.placeWord_executed (s : State) (k : Nat) (bs : List Byte) : (s.placeWord k bs).executed = s.executed := rfl
@[simp] theorem State.placeWord_branches (s : State) (k : Nat) (bs : List Byte) : (s.placeWord k bs).branches = s.branches := rfl
@[simp] theorem State.placeWord_inputs (s : State) (k : Nat) (bs : List Byte) : (s.placeWord k bs).inputs = s.inputs := rfl
@[simp] theorem State.placeWord_output (s : State) (k : Nat) (bs : List Byte) : (s.placeWord k bs).output = s.output := rfl
@[simp] theorem State.placeWord_draws (s : State) (k : Nat) (bs : List Byte) : (s.placeWord k bs).draws = s.draws := rfl

@[simp] theorem State.withMem_launch (s : State) (m : List Host.Cell) : (s.withMem m).launch = s.launch := rfl
@[simp] theorem State.withMem_xs (s : State) (m : List Host.Cell) : (s.withMem m).xs = s.xs := rfl
@[simp] theorem State.withMem_pc (s : State) (m : List Host.Cell) : (s.withMem m).pc = s.pc := rfl
@[simp] theorem State.withMem_el (s : State) (m : List Host.Cell) : (s.withMem m).el = s.el := rfl
@[simp] theorem State.withMem_pan (s : State) (m : List Host.Cell) : (s.withMem m).pan = s.pan := rfl
@[simp] theorem State.withMem_regs (s : State) (m : List Host.Cell) : (s.withMem m).regs = s.regs := rfl
@[simp] theorem State.withMem_pendingRegs (s : State) (m : List Host.Cell) : (s.withMem m).pendingRegs = s.pendingRegs := rfl
@[simp] theorem State.withMem_par (s : State) (m : List Host.Cell) : (s.withMem m).par = s.par := rfl
@[simp] theorem State.withMem_parStale (s : State) (m : List Host.Cell) : (s.withMem m).parStale = s.parStale := rfl
@[simp] theorem State.withMem_mem (s : State) (m : List Host.Cell) : (s.withMem m).mem = m := rfl
@[simp] theorem State.withMem_pendingWrites (s : State) (m : List Host.Cell) : (s.withMem m).pendingWrites = s.pendingWrites := rfl
@[simp] theorem State.withMem_softAccesses (s : State) (m : List Host.Cell) : (s.withMem m).softAccesses = s.softAccesses := rfl
@[simp] theorem State.withMem_tableReads (s : State) (m : List Host.Cell) : (s.withMem m).tableReads = s.tableReads := rfl
@[simp] theorem State.withMem_tlb (s : State) (m : List Host.Cell) : (s.withMem m).tlb = s.tlb := rfl
@[simp] theorem State.withMem_executed (s : State) (m : List Host.Cell) : (s.withMem m).executed = s.executed := rfl
@[simp] theorem State.withMem_branches (s : State) (m : List Host.Cell) : (s.withMem m).branches = s.branches := rfl
@[simp] theorem State.withMem_inputs (s : State) (m : List Host.Cell) : (s.withMem m).inputs = s.inputs := rfl
@[simp] theorem State.withMem_output (s : State) (m : List Host.Cell) : (s.withMem m).output = s.output := rfl
@[simp] theorem State.withMem_draws (s : State) (m : List Host.Cell) : (s.withMem m).draws = s.draws := rfl

@[simp] theorem State.noteReads_launch (s : State) (xs : List TableRead) : (s.noteReads xs).launch = s.launch := rfl
@[simp] theorem State.noteReads_xs (s : State) (xs : List TableRead) : (s.noteReads xs).xs = s.xs := rfl
@[simp] theorem State.noteReads_pc (s : State) (xs : List TableRead) : (s.noteReads xs).pc = s.pc := rfl
@[simp] theorem State.noteReads_el (s : State) (xs : List TableRead) : (s.noteReads xs).el = s.el := rfl
@[simp] theorem State.noteReads_pan (s : State) (xs : List TableRead) : (s.noteReads xs).pan = s.pan := rfl
@[simp] theorem State.noteReads_regs (s : State) (xs : List TableRead) : (s.noteReads xs).regs = s.regs := rfl
@[simp] theorem State.noteReads_pendingRegs (s : State) (xs : List TableRead) : (s.noteReads xs).pendingRegs = s.pendingRegs := rfl
@[simp] theorem State.noteReads_par (s : State) (xs : List TableRead) : (s.noteReads xs).par = s.par := rfl
@[simp] theorem State.noteReads_parStale (s : State) (xs : List TableRead) : (s.noteReads xs).parStale = s.parStale := rfl
@[simp] theorem State.noteReads_mem (s : State) (xs : List TableRead) : (s.noteReads xs).mem = s.mem := rfl
@[simp] theorem State.noteReads_pendingWrites (s : State) (xs : List TableRead) : (s.noteReads xs).pendingWrites = s.pendingWrites := rfl
@[simp] theorem State.noteReads_softAccesses (s : State) (xs : List TableRead) : (s.noteReads xs).softAccesses = s.softAccesses := rfl
@[simp] theorem State.noteReads_tableReads (s : State) (xs : List TableRead) : (s.noteReads xs).tableReads = xs ++ s.tableReads := rfl
@[simp] theorem State.noteReads_tlb (s : State) (xs : List TableRead) : (s.noteReads xs).tlb = s.tlb := rfl
@[simp] theorem State.noteReads_executed (s : State) (xs : List TableRead) : (s.noteReads xs).executed = s.executed := rfl
@[simp] theorem State.noteReads_branches (s : State) (xs : List TableRead) : (s.noteReads xs).branches = s.branches := rfl
@[simp] theorem State.noteReads_inputs (s : State) (xs : List TableRead) : (s.noteReads xs).inputs = s.inputs := rfl
@[simp] theorem State.noteReads_output (s : State) (xs : List TableRead) : (s.noteReads xs).output = s.output := rfl
@[simp] theorem State.noteReads_draws (s : State) (xs : List TableRead) : (s.noteReads xs).draws = s.draws := rfl

@[simp] theorem State.noteWalk_launch (s : State) (notes : List LookupNote) : (s.noteWalk notes).launch = s.launch := rfl
@[simp] theorem State.noteWalk_xs (s : State) (notes : List LookupNote) : (s.noteWalk notes).xs = s.xs := rfl
@[simp] theorem State.noteWalk_pc (s : State) (notes : List LookupNote) : (s.noteWalk notes).pc = s.pc := rfl
@[simp] theorem State.noteWalk_el (s : State) (notes : List LookupNote) : (s.noteWalk notes).el = s.el := rfl
@[simp] theorem State.noteWalk_pan (s : State) (notes : List LookupNote) : (s.noteWalk notes).pan = s.pan := rfl
@[simp] theorem State.noteWalk_regs (s : State) (notes : List LookupNote) : (s.noteWalk notes).regs = s.regs := rfl
@[simp] theorem State.noteWalk_pendingRegs (s : State) (notes : List LookupNote) : (s.noteWalk notes).pendingRegs = s.pendingRegs := rfl
@[simp] theorem State.noteWalk_par (s : State) (notes : List LookupNote) : (s.noteWalk notes).par = s.par := rfl
@[simp] theorem State.noteWalk_parStale (s : State) (notes : List LookupNote) : (s.noteWalk notes).parStale = s.parStale := rfl
@[simp] theorem State.noteWalk_mem (s : State) (notes : List LookupNote) : (s.noteWalk notes).mem = s.mem := rfl
@[simp] theorem State.noteWalk_pendingWrites (s : State) (notes : List LookupNote) : (s.noteWalk notes).pendingWrites = s.pendingWrites := rfl
@[simp] theorem State.noteWalk_softAccesses (s : State) (notes : List LookupNote) : (s.noteWalk notes).softAccesses = s.softAccesses := rfl
@[simp] theorem State.noteWalk_tableReads (s : State) (notes : List LookupNote) : (s.noteWalk notes).tableReads = descReads notes ++ s.tableReads := rfl
@[simp] theorem State.noteWalk_tlb (s : State) (notes : List LookupNote) : (s.noteWalk notes).tlb = s.tlb := rfl
@[simp] theorem State.noteWalk_executed (s : State) (notes : List LookupNote) : (s.noteWalk notes).executed = s.executed := rfl
@[simp] theorem State.noteWalk_branches (s : State) (notes : List LookupNote) : (s.noteWalk notes).branches = s.branches := rfl
@[simp] theorem State.noteWalk_inputs (s : State) (notes : List LookupNote) : (s.noteWalk notes).inputs = s.inputs := rfl
@[simp] theorem State.noteWalk_output (s : State) (notes : List LookupNote) : (s.noteWalk notes).output = s.output := rfl
@[simp] theorem State.noteWalk_draws (s : State) (notes : List LookupNote) : (s.noteWalk notes).draws = s.draws := rfl

/-- No lookup, nothing recorded. -/
@[simp] theorem State.noteWalk_nil (s : State) : s.noteWalk [] = s := rfl

end Sys2Proof.Machine
end

