-- ==== Sys2Proof/Laws/Walk.lean ====
section
/-! SUPPORT. What the traced parts of a translation can do: each lemma says once how a result arises. -/

namespace Sys2Proof.Machine

/-! ### Continuing a result -/

theorem Res.bind_ok {α β : Type} {x : Res α} {f : α → Res β} {b : β} :
    x.bind f = .ok b ↔ ∃ a, x = .ok a ∧ f a = .ok b := by cases x <;> simp [Res.bind]

theorem Traced.bind_ok {α β : Type} {x : Traced α} {f : α → Traced β} {b : β} :
    (x.bind f).2 = .ok b ↔ ∃ a, x.2 = .ok a ∧ (f a).2 = .ok b := by
  unfold Traced.bind; split <;> simp_all

theorem Traced.bind_mmu {α β : Type} {x : Traced α} {f : α → Traced β} {e : MmuFault} :
    (x.bind f).2 = .mmu e ↔ x.2 = .mmu e ∨ ∃ a, x.2 = .ok a ∧ (f a).2 = .mmu e := by
  unfold Traced.bind; split <;> simp_all

theorem Traced.bind_stop {α β : Type} {x : Traced α} {f : α → Traced β} {e : Fault} :
    (x.bind f).2 = .stop e ↔ x.2 = .stop e ∨ ∃ a, x.2 = .ok a ∧ (f a).2 = .stop e := by
  unfold Traced.bind; split <;> simp_all

/-- What the lookups of a continued part did. -/
theorem Traced.mem_bind {α β : Type} {x : Traced α} {f : α → Traced β} {t : LookupNote} :
    t ∈ (x.bind f).1 ↔ t ∈ x.1 ∨ ∃ a, x.2 = .ok a ∧ t ∈ (f a).1 := by
  unfold Traced.bind; split <;> simp_all

@[simp] theorem Traced.pure_snd {α : Type} (x : Res α) : (Traced.pure x).2 = x := rfl

@[simp] theorem Traced.pure_fst {α : Type} (x : Res α) : (Traced.pure x).1 = [] := rfl

@[simp] theorem descUse_snd (l : Launch) (c : WalkCfg) (p : WalkPos) (d : Desc) (at_ : DescPlace) (ia : Nat) :
    (descUse l c p d at_ ia).2 = descStep c p d at_.mro ia := rfl

/-- The entries of lookups. -/
theorem mem_tlbEntries {notes : List LookupNote} {t : TlbEntry} :
    t ∈ tlbEntries notes ↔ ∃ n ∈ notes, n.entry = some t := by simp [tlbEntries]

@[simp] theorem tlbEntries_nil : tlbEntries [] = [] := rfl

@[simp] theorem descReads_nil : descReads [] = [] := rfl

theorem Traced.bind_of_ok {α β : Type} {x : Traced α} {f : α → Traced β} {a : α} (h : x.2 = .ok a) :
    (x.bind f).2 = (f a).2 := by unfold Traced.bind; split <;> simp_all

/-! ### One stage -/

/-- A pick is one of the permitted outcomes. -/
theorem pick_mem {α : Type} (n : Nat) (pt : ChoicePoint) (x : α) (ys : List α) : pick n pt x ys ∈ x :: ys := by
  unfold pick
  split
  · simp
  · rw [List.getD_eq_getElem?_getD]
    cases h : (x :: _)[Config.choose n pt % _]? with
    | none => simp
    | some v => exact List.mem_of_getElem? h

/-- Without an entry to use, a stage is a walk, or the fault of EPDn. -/
theorem runStage_miss (e : WalkEnv) (c : WalkCfg) (place : WalkPos → Traced DescPlace) (ia : Nat)
    (assured epd : Bool) (h : usableEntries e.s e.purpose c ia epd = []) :
    runStage e c place ia assured epd =
      if epd then Traced.pure (.mmu ⟨.translation, 0, .s1, .epd⟩)
      else walkFrom e c place ia (startWalk e.s c assured ia) := by
  simp [runStage, h, pick]

theorem usableEntries_of_empty (s : State) (pp : Purpose) (c : WalkCfg) (ia : Nat) (epd : Bool)
    (h : s.tlb = []) : usableEntries s pp c ia epd = [] := by
  unfold usableEntries; split <;> simp [h]

/-- A stage is one of: the fault of EPDn, a walk, the use of an entry that answers. -/
theorem runStage_cases (e : WalkEnv) (c : WalkCfg) (place : WalkPos → Traced DescPlace) (ia : Nat)
    (assured epd : Bool) :
    runStage e c place ia assured epd = Traced.pure (.mmu ⟨.translation, 0, .s1, .epd⟩) ∨
    runStage e c place ia assured epd = walkFrom e c place ia (startWalk e.s c assured ia) ∨
    ∃ t ∈ e.s.tlb, t.answers c ia = true ∧ useCacheable e.s.launch c (t.use c ia) = true ∧
      runStage e c place ia assured epd = walkFrom e (resumeCfg c t) place ia (t.use c ia) := by
  unfold runStage
  generalize hx : pick e.s.draws _ none ((usableEntries e.s e.purpose c ia epd).map some) = x
  cases x with
  | none => cases epd <;> simp
  | some t =>
    refine .inr (.inr ⟨t, ?_⟩)
    have hmem : some t ∈ none :: (usableEntries e.s e.purpose c ia epd).map some := hx ▸ pick_mem _ _ _ _
    simp only [List.mem_cons, reduceCtorEq, List.mem_map, Option.some.injEq, exists_eq_right,
      false_or] at hmem
    unfold usableEntries at hmem
    split at hmem
    · simp at hmem
    · simp only [List.mem_filter, Bool.and_eq_true] at hmem
      exact ⟨hmem.1, hmem.2.1.1, hmem.2.1.2, rfl⟩

/-- What a lookup that another one follows was. -/
theorem walkLoop_succ (e : WalkEnv) (c : WalkCfg) (place : WalkPos → Traced DescPlace) (ia n : Nat)
    (p : WalkPos) {at_ : DescPlace} {d : Desc} (hp : (place p).2 = .ok at_)
    (hl : lookup e c p at_ ia = .ok d) :
    (walkLoop e c place ia (n + 1) p).2 =
      match descStep c p d at_.mro ia with
      | .ok (.go p') => (walkLoop e c place ia n p').2
      | .ok (.done r) => .ok r
      | .mmu f => .mmu f
      | .stop f => .stop f
      | .refuse f => .refuse f := by
  rw [walkLoop, Traced.bind_of_ok hp, hl, Traced.bind_of_ok rfl]
  cases h : descStep c p d at_.mro ia with
  | ok x => rw [Traced.bind_of_ok (a := x) h]; cases x <;> rfl
  | mmu f => simp [descUse, h, Traced.bind]
  | stop f => simp [descUse, h, Traced.bind]
  | refuse f => simp [descUse, h, Traced.bind]

/-- A fault of an open point carries that cause. -/
theorem openPoint_cause {s p c a ia f} (h : openPoint s p c a ia = .mmu f) : f.cause = .openPoint := by
  unfold openPoint at h
  split at h
  · cases h
  · cases h; rfl
  · split at h
    · cases h; rfl
    · cases h

/-- Only a Table descriptor leads to another lookup, and this is what it leads to. -/
theorem descStep_go {c p d mro ia p'} (h : descStep c p d mro ia = .ok (.go p')) :
    ∃ t, d = .table t ∧
    ((c.system = .vmsav8 ∧ v8TableAllowed c.granule p.level c.ds = true ∧ p' = nextPos c p t mro (p.level + 1)
      (v8DescAddr c.granule (p.level + 1) false c.sz c.paSize (t.next.toNat % 2 ^ v8MaxOa c.opt52) ia)) ∨
     (c.system = .vmsav9 ∧ v9TableTooLarge c.granule p.level t.skl = false ∧ p' = nextPos c p t mro (p.level + 1 + t.skl.toNat)
        (v9NextAddr c.granule p.level t.skl t.next ia))) := by
  cases d with
  | invalid => cases h
  | table t =>
    refine ⟨t, rfl, ?_⟩
    unfold descStep at h
    cases hs : c.system <;> rw [hs] at h <;> simp only at h
    · left; unfold v8Table at h; split at h
      · cases h; exact ⟨rfl, by assumption, rfl⟩
      · cases h
    · right; unfold v9Table at h; split at h
      · cases h
      · split at h
        · cases h
        · simp only at h; split at h
          · cases h
          · rename_i h1 h2 h3; cases h; exact ⟨rfl, by simpa using h2, rfl⟩
  | block b => unfold descStep leafStep at h; simp only at h; (repeat' split at h) <;> cases h
  | page b => unfold descStep leafStep at h; simp only at h; (repeat' split at h) <;> cases h

/-- The first lookup of a walk, under either system. -/
theorem startWalk_go {s c a ia p} (h : startWalk s c a ia = .ok (.go p)) :
    (c.system = .vmsav8 ∧ ∃ l, ((c.stage = .s1 ∧ v8S1Start c = some l) ∨ (c.stage = .s2 ∧ v8S2Start c = some l)) ∧ 
      p = { level := l, da := v8DescAddr c.granule l true c.sz c.paSize (v8BaseAddr c.baddr c.oa52) ia, space := c.lookupSpace, first := true, hier := none, assured := a }) ∨
    (c.system = .vmsav9 ∧ ∃ l, v9RegularStart c.granule c.sz c.twoRanges = some l ∧ l + c.skl ≤ 3 ∧
      p = { level := l + c.skl, da := v9StartAddr c.granule c.sz (l + c.skl) c.baddr ia, space := c.lookupSpace, first := true, hier := none, assured := a }) := by
  have ho : ∀ pt, openPoint s pt c a ia ≠ .ok (.go p) := by
    intro pt hh; unfold openPoint at hh; (repeat' split at hh) <;> cases hh
  have hv : ∀ l, v8Begin c a l ia = .ok (.go p) → p = { level := l, da := v8DescAddr c.granule l true c.sz c.paSize (v8BaseAddr c.baddr c.oa52) ia, space := c.lookupSpace, first := true, hier := none, assured := a } := by
    intro l hh; unfold v8Begin at hh; split at hh
    · cases hh
    · cases hh; rfl
  unfold startWalk at h
  cases hs : c.system <;> rw [hs] at h <;> simp only at h
  · left; refine ⟨rfl, ?_⟩
    cases hst : c.stage <;> rw [hst] at h <;> simp only at h
    · cases hq : v8S1Start c with
      | none => rw [hq] at h; exact absurd h (ho _)
      | some l => rw [hq] at h; exact ⟨l, by simp, hv l h⟩
    · cases hq : v8S2Start c with
      | none => rw [hq] at h; cases h
      | some l => 
        rw [hq] at h; simp only at h; split at h
        · exact absurd h (ho _)
        · exact ⟨l, by simp, hv l h⟩
  · right; refine ⟨rfl, ?_⟩
    cases hq : v9RegularStart c.granule c.sz c.twoRanges with
    | none => rw [hq] at h; exact absurd h (ho _)
    | some l =>
      rw [hq] at h; simp only at h; split at h
      · cases h
      · split at h
        · exact absurd h (ho _)
        · unfold v9Begin at h; simp only at h; split at h
          · cases h
          · cases h; exact ⟨l, rfl, by omega, rfl⟩

/-- A walk that succeeds reads a descriptor, then ends there or goes on. -/
theorem walkLoop_ok_succ {e c place ia n p r} (h : (walkLoop e c place ia (n+1) p).2 = .ok r) :
    ∃ at_ d, (place p).2 = .ok at_ ∧ lookup e c p at_ ia = .ok d ∧
      ((∃ p', descStep c p d at_.mro ia = .ok (.go p') ∧ (walkLoop e c place ia n p').2 = .ok r) ∨
       descStep c p d at_.mro ia = .ok (.done r)) := by
  have h' := h
  unfold walkLoop at h
  rw [Traced.bind_ok] at h
  obtain ⟨at_, hp, h⟩ := h
  rw [Traced.bind_ok] at h
  obtain ⟨d, hl, h⟩ := h
  refine ⟨at_, d, hp, hl, ?_⟩
  rw [walkLoop_succ _ _ _ _ _ _ hp hl] at h'
  split at h'
  · rename_i p' hd; exact .inl ⟨p', hd, h'⟩
  · rename_i hd; cases h'; exact .inr hd
  all_goals cases h'

/-! ### Stage 2 and its uses -/

/-- A stage 2 result passed the FEAT_THE checks of its use. -/
theorem stage2_ok {e : WalkEnv} {ss : SecState} {use : S2Use} {ipa : Nat} {sp : Space} {d : StageOk} :
    (stage2 e ss use ipa sp).2 = .ok d ↔
      (runStage e (stage2Cfg e.s.launch e.regs ss sp) placeOf ipa false false).2 = .ok d ∧
        hardeningFault e.s.launch e.regs use d = none := by
  unfold stage2
  rw [Traced.bind_ok]
  constructor
  · rintro ⟨a, ha, h⟩
    cases hf : hardeningFault e.s.launch e.regs use a <;> simp_all
  · rintro ⟨ha, h⟩
    exact ⟨d, ha, by simp [h]⟩

end Sys2Proof.Machine
end

