-- ==== Sys2Proof/Laws/Ops.lean ====
section
/-! SUPPORT. What the shared operations of a step can do: each lemma says it once. -/

namespace Sys2Proof.Machine

/-! ### Registers and choices -/

@[simp] theorem readXt_zr (s : State) : readXt s .zr = 0 := rfl

theorem pick_nil {α : Type} (n : Nat) (pt : ChoicePoint) (x : α) : pick n pt x [] = x := rfl

/-- With no register write pending a translation reads the registers. -/
theorem regsView_of_synced (s : State) (p : Purpose) (h : s.pendingRegs = []) : regsView s p = s.regs := by
  simp [regsView, h]

/-- With no write pending a descriptor read is determined. -/
theorem ttdRead_of_no_pending (s : State) (pt : ChoicePoint) (force mayIgnore : Bool) (sp : Space) (pa n : Nat)
    (ee : Bool) (h : s.pendingWrites = []) (hx : physExists s.launch sp pa n = true) :
    ttdRead s pt force mayIgnore sp pa n ee =
      .ok (BitVec.ofNat 128 (valueOfBytes ee (observedBytes s.mem [] 0 (memKey sp pa) n))) := by
  simp only [ttdRead, hx, if_true]
  simp [readBytes, h, chooseMask, orderedPart, openPart]

/-! ### Disabled stages -/

/-- An address below the OA size has no bit above it. -/
theorem aboveOa_false {a n : Nat} (h : a < 2 ^ n) : aboveOaSize a n = false := by
  simp [aboveOaSize, Nat.div_eq_of_lt h]

/-- With no stage enabled `CheckPerms` has nothing to say. -/
theorem permCheck_skip {s : State} {r : SysRegs} {q : Request}
    (h1 : stage1Disabled s.launch r q.regime q.ss = true)
    (h2 : q.stage1Only = true ∨ stage2Enabled s.launch r q.regime q.ss = false) (t : TransOk) :
    permCheck s r q t = .ok t := by
  unfold permCheck
  rcases h2 with h2 | h2 <;> simp [stageChecked, h1, h2]

/-- Without an enabled stage 2 the output of stage 1 is the result. -/
theorem secondStage_flat {s : State} {r : SysRegs} {force : Bool} {q : Request} (o : StageOk)
    (h2 : q.stage1Only = true ∨ stage2Enabled s.launch r q.regime q.ss = false) :
    ∃ t, (secondStage s r force q o).2 = .ok t ∧ t.oa = o.oa ∧ t.space = o.space ∧ t.attrs = o.attrs := by
  unfold secondStage
  by_cases hs : (q.stage1Only || !hasStage2 s.launch r q.regime q.ss) = true
  · rw [if_pos hs]; exact ⟨_, rfl, rfl, rfl, rfl⟩
  · rw [if_neg hs]
    have : vmEffective s.launch r q.ss = false := by
      rcases h2 with h2 | h2
      · simp [h2] at hs
      · simp [stage2Enabled] at h2 hs; exact h2 hs.2
    simp only [this]
    exact ⟨_, rfl, rfl, rfl, rfl⟩

/-- With stage 1 disabled and no stage 2 to follow, an address that fits is flat mapped. -/
theorem attempt_flat (s : State) (r : SysRegs) (force : Bool) (q : Request)
    (h1 : stage1Disabled s.launch r q.regime q.ss = true)
    (h2 : q.stage1Only = true ∨ stage2Enabled s.launch r q.regime q.ss = false)
    (h3 : flatAddress r q.regime q.va < 2 ^ oaSize1 s.launch r q.regime) :
    ∃ o, (attempt s r force q).2 = .ok o ∧ o.oa = flatAddress r q.regime q.va ∧ o.space = q.ss.space ∧
      o.attrs = disabledAttrs s.launch r q.regime q.ss q.acc.kind := by
  have hf : (firstStage s r force q).2 = .ok (flatOk s.launch r q.regime q.ss q.va q.acc.kind) := by
    simp only [firstStage, h1, if_true, flatStage1, aboveOa_false h3]; rfl
  obtain ⟨t, ht, h⟩ := secondStage_flat (force := force) (flatOk s.launch r q.regime q.ss q.va q.acc.kind) h2
  refine ⟨t, ?_, h⟩
  unfold attempt
  rw [Traced.bind_of_ok (a := t) (by rw [Traced.bind_of_ok hf]; exact ht), Traced.pure_snd,
    permCheck_skip h1 h2]

/-- A judgement that accepts every result changes nothing. -/
@[simp] theorem judged_none (x : Traced TransOk) : judged (fun _ => none) x = x := by
  obtain ⟨n, r⟩ := x
  cases r <;> simp [judged, Traced.bind, Traced.pure]

/-- A judged translation that succeeds was accepted. -/
theorem judged_ok {judge : TransOk → Option MmuFault} {x : Traced TransOk} {t : TransOk} :
    (judged judge x).2 = .ok t ↔ x.2 = .ok t ∧ judge t = none := by
  unfold judged
  rw [Traced.bind_ok]
  constructor
  · rintro ⟨a, ha, h⟩
    cases hj : judge a <;> simp_all
  · rintro ⟨h, hj⟩
    exact ⟨t, h, by simp [hj]⟩

/-- A judged translation stops as the translation does. -/
theorem judged_stop {judge : TransOk → Option MmuFault} {x : Traced TransOk} {f : Fault} :
    (judged judge x).2 = .stop f ↔ x.2 = .stop f := by
  unfold judged
  rw [Traced.bind_stop]
  constructor
  · rintro (h | ⟨a, -, h⟩)
    · exact h
    · cases hj : judge a <;> simp [hj] at h
  · exact .inl

/-- A judged translation is one judged pass, made with or without the order of FEAT_ETS2 and FEAT_ETS3. -/
theorem translateJudged_attempt (s : State) (q : Request) (judge : TransOk → Option MmuFault) :
    ∃ force, translateJudged s q judge = judged judge (attempt s (regsView s q.purpose) force q) := by
  unfold translateJudged
  simp only
  split
  · split
    · exact ⟨true, rfl⟩
    · exact ⟨false, rfl⟩
  · exact ⟨false, rfl⟩

/-- What a translation that no access judges is. -/
theorem translateAddress_eq (s : State) (q : Request) :
    translateAddress s q =
      match (attempt s (regsView s q.purpose) false q).2 with
      | .mmu f =>
        if takesFault s.launch q f && etsFault s.launch f then attempt s (regsView s q.purpose) true q
        else attempt s (regsView s q.purpose) false q
      | _ => attempt s (regsView s q.purpose) false q := by
  rw [translateAddress, translateJudged]
  cases h : (attempt s (regsView s q.purpose) false q).2 <;> simp [h]

/-- A translation is one pass, made with or without the order of FEAT_ETS2 and FEAT_ETS3. -/
theorem translateAddress_attempt (s : State) (q : Request) :
    ∃ force, translateAddress s q = attempt s (regsView s q.purpose) force q := by
  obtain ⟨force, h⟩ := translateJudged_attempt s q fun _ => none
  exact ⟨force, by rw [translateAddress, h, judged_none]⟩

/-- A pass that succeeds without that order is the translation. -/
theorem translateAddress_of_ok {s : State} {q : Request} {t : TransOk}
    (h : (attempt s (regsView s q.purpose) false q).2 = .ok t) : (translateAddress s q).2 = .ok t := by
  rw [translateAddress_eq]
  simp only [h]

/-! ### AT instructions -/

/-- Every instruction is `AT(op, t)` of its operation. -/
theorem exec_eq (i : Instr) (s : State) : exec i s = execAt i.form i.xt s := by cases i <;> rfl

/-- Outside the UNDEFINED cases an AT instruction translates for its target Security state. -/
theorem execAt_of_executes {f : AtForm} {t : XReg} {s : State} {ss : SecState} (h : ExecutesFor f s ss) :
    execAt f t s =
      atTranslate (equivalentForm s.launch (regsView s .atInstr) ss f) (regsView s .atInstr) ss (readXt s t) s := by
  obtain ⟨h1, h2, h3, h4⟩ := h
  have h5 : el2Missing s.launch (regsView s .atInstr) ss f = false := by
    unfold el2Missing
    cases hf : f.el <;> simp_all
  simp only [execAt, h1, h3, h5]
  rw [if_neg (by simp), if_neg (by omega)]
  simp

/-- An AT instruction is UNDEFINED, or translates for a target Security state. -/
theorem execAt_cases (f : AtForm) (t : XReg) (s : State) :
    (UndefinedAt f s ∧ execAt f t s = .fault .undefined) ∨ ∃ ss, ExecutesFor f s ss := by
  unfold execAt UndefinedAt ExecutesFor
  by_cases h1 : featureImplemented s.launch f.feature = true
  · by_cases h2 : s.el.toNat < (minEl f).toNat
    · exact .inl ⟨.inr (.inl h2), by simp [h1, h2, undefinedInstruction]⟩
    · cases h3 : targetState s.launch (regsView s .atInstr) f.el with
      | none => exact .inl ⟨.inr (.inr (.inl rfl)), by simp [h1, h2, h3, undefinedInstruction]⟩
      | some ss =>
        by_cases h4 : el2Missing s.launch (regsView s .atInstr) ss f = true
        · have h5 : f.el = .e2 ∧ el2Enabled s.launch (regsView s .atInstr) ss = false := by
            simpa [el2Missing] using h4
          exact .inl ⟨.inr (.inr (.inr ⟨ss, rfl, h5⟩)), by simp [h1, h2, h3, h4, undefinedInstruction]⟩
        · refine .inr ⟨ss, h1, by omega, rfl, fun he => ?_⟩
          simpa [el2Missing, he] using h4
  · exact .inl ⟨.inl (by simpa using h1), by simp [h1, undefinedInstruction]⟩

/-- An AT instruction ends with PAR_EL1 written, or with an MMU fault taken, or as its walk stops. -/
theorem atFinish_next {s t : State} {f : AtForm} {fmt : ParFormat} {x : Res TransOk}
    (h : atFinish s f fmt x = .next t) :
    (∃ o, x = .ok o ∧ t = afterAt s (parOfResult s.launch fmt o)) ∨
    (∃ e, x = .mmu e ∧ atReports s.launch f e = true ∧ t = afterAt s (parOfFault s.draws f fmt e)) := by
  cases x with
  | ok o => simp only [atFinish, atComplete, Host.Outcome.next.injEq] at h; exact .inl ⟨o, rfl, h.symm⟩
  | mmu e =>
    simp only [atFinish] at h
    split at h
    · rename_i hr
      simp only [atComplete, Host.Outcome.next.injEq] at h; exact .inr ⟨e, rfl, hr, h.symm⟩
    · cases h
  | stop e => cases h
  | refuse e => cases h

/-- Whatever an AT instruction leaves, it is the old state with what its walk read recorded and PAR_EL1 written. -/
theorem exec_next {i : Instr} {s t : State} (h : exec i s = .next t) :
    ∃ notes p, t = afterAt (s.noteWalk notes) p := by
  rw [exec_eq] at h
  rcases execAt_cases i.form i.xt s with ⟨_, hu⟩ | ⟨ss, hs⟩
  · rw [hu] at h; cases h
  · rw [execAt_of_executes hs] at h
    rcases atFinish_next h with ⟨o, _, ht⟩ | ⟨e, _, _, ht⟩
    · exact ⟨_, _, ht⟩
    · exact ⟨_, _, ht⟩

/-! ### Steps -/

/-- A step with no event waiting fetches. -/
theorem step_of_no_inputs {s : State} (h : s.inputs = []) : step s = stepInstr s := by simp [step, h]

/-- A step with an event waiting applies it. -/
theorem step_of_event {s : State} {ev : Event} {rest : List Event} (h : s.inputs = ev :: rest) :
    step s = applyEvent { s with inputs := rest, draws := s.draws + 1 } ev := by simp [step, h]

end Sys2Proof.Machine
end

