-- ==== Sys2Proof/Laws/Events.lean ====
section
/-! SUPPORT. What an event of the environment, a DSB and a fetched instruction can leave: each lemma says it once. -/

namespace Sys2Proof.Machine

/-! ### Outcomes -/

/-- The next state of an outcome is determined. -/
theorem next_inj {s t : State} (h : (Host.Outcome.next s : Host.Outcome State Fault Refusal) = .next t) : s = t := by
  cases h; rfl

/-- An answered translation changes the output and the record of what walks read. -/
theorem answerTranslation_next {s t : State} {x : Traced TransOk} (h : answerTranslation s x = .next t) :
    ∃ o, t = (s.noteWalk x.1).answer o := by
  unfold answerTranslation at h; split at h <;> cases h <;> exact ⟨_, rfl⟩

/-- A request to translate changes the output and the record of what walks read. -/
theorem doTranslate_next {s t : State} {acc : Access} {va : Word} {p : Purpose}
    (h : doTranslate s acc va p = .next t) : ∃ notes o, t = (s.noteWalk notes).answer o := by
  unfold doTranslate at h; split at h
  · cases h
  · exact ⟨_, answerTranslation_next h⟩

/-- Marking the writes a read returned changes no more than that mark. -/
theorem mem_markRead {k n : Nat} {ws : List PendingWrite} {w : PendingWrite} (h : w ∈ markRead k n ws) :
    ∃ v ∈ ws, w = { v with readBack := w.readBack } := by
  induction ws with
  | nil => simp [markRead] at h
  | cons v ws ih =>
    unfold markRead at h
    rcases List.mem_cons.mp h with h | h
    · refine ⟨v, List.mem_cons_self, ?_⟩
      split at h <;> (subst h; rfl)
    · obtain ⟨u, hu, hw⟩ := ih h
      exact ⟨u, List.mem_cons_of_mem _ hu, hw⟩

/-- A part of an access is made at a place that exists. -/
theorem accessPart_ok {s : State} {a : ExplicitAccess} {kind : AccessKind} {o n : Nat} {p : AccessPart}
    (h : (accessPart s a kind o n).2 = .ok p) :
    p.offset = o ∧ p.bytes = n ∧ ∃ sp pa, physExists s.launch sp pa n = true ∧ p.key = memKey sp pa := by
  unfold accessPart at h
  split at h
  · cases h
  · obtain ⟨t, -, h⟩ := Traced.bind_ok.mp h
    rw [Traced.pure_snd] at h
    split at h
    · cases h
    · rename_i hx
      split at h
      · cases h
      · cases h; exact ⟨rfl, rfl, _, _, by simpa using hx, rfl⟩

/-- What the parts of an access leave: writes added at the places of parts or marked as returned, all else but
the records. -/
theorem makeParts_frame (s : State) (simd : Bool) (data : AccessData) (m : Progress) :
    let t := s.makeParts simd data m
    (∀ w ∈ t.pendingWrites, (∃ v ∈ s.pendingWrites, w = { v with readBack := w.readBack }) ∨
      ∃ p ∈ m.parts, ∀ c ∈ w.cells, p.key ≤ c.1 ∧ c.1 < p.key + p.bytes) ∧
    t = { s with
          pendingWrites := t.pendingWrites, softAccesses := t.softAccesses, tableReads := t.tableReads } := by
  have key : ∀ (ps : List AccessPart) (u : State),
      let t := ps.foldl (fun s p => s.makePart simd data p) u
      (∀ w ∈ t.pendingWrites, (∃ v ∈ u.pendingWrites, w = { v with readBack := w.readBack }) ∨
        ∃ p ∈ ps, ∀ c ∈ w.cells, p.key ≤ c.1 ∧ c.1 < p.key + p.bytes) ∧
      t = { u with pendingWrites := t.pendingWrites, softAccesses := t.softAccesses } := by
    intro ps
    induction ps with
    | nil => exact fun u => ⟨fun w hw => .inl ⟨w, hw, rfl⟩, rfl⟩
    | cons p ps ih =>
      intro u
      obtain ⟨h1, h2⟩ := ih (u.makePart simd data p)
      refine ⟨fun w hw => ?_, ?_⟩
      · rcases h1 w hw with ⟨v, hv, he⟩ | ⟨x, hx, hc⟩
        · cases data with
          | load =>
            have hv' : v ∈ if simd then u.pendingWrites else markRead p.key p.bytes u.pendingWrites := hv
            split at hv'
            · exact .inl ⟨v, hv', he⟩
            · obtain ⟨z, hz, hv2⟩ := mem_markRead hv'
              exact .inl ⟨z, hz, by rw [he, hv2]⟩
          | store bs =>
            rcases List.mem_append.mp hv with hv | hv
            · exact .inl ⟨v, hv, he⟩
            · rw [List.mem_singleton] at hv
              refine .inr ⟨p, List.mem_cons_self, fun c hc => ?_⟩
              rw [he, hv] at hc
              have := mem_cellsFrom hc
              simp only [List.length_take] at this
              omega
        · exact .inr ⟨x, List.mem_cons_of_mem _ hx, hc⟩
      · rw [List.foldl_cons, h2]; cases data <;> rfl
  obtain ⟨h1, h2⟩ := key m.parts (s.noteWalk m.notes)
  refine ⟨h1, ?_⟩
  unfold State.makeParts
  rw [h2]
  rfl

/-- The parts that an access in progress made are at places that exist. -/
theorem accessLoop_parts {s : State} {a : ExplicitAccess} {data : AccessData} {l : List (Nat × Nat)}
    {m : Progress} (hm : ∀ p ∈ m.parts, ∃ sp pa, physExists s.launch sp pa p.bytes = true ∧ p.key = memKey sp pa) :
    ∀ p ∈ (accessLoop s a data l m).1.parts,
      ∃ sp pa, physExists s.launch sp pa p.bytes = true ∧ p.key = memKey sp pa := by
  induction l generalizing m with
  | nil => exact hm
  | cons x l ih =>
    obtain ⟨o, n⟩ := x
    unfold accessLoop
    simp only
    split
    · rename_i p hp
      refine ih fun y hy => ?_
      rcases List.mem_append.mp hy with hy | hy
      · exact hm y hy
      · rw [List.mem_singleton] at hy
        obtain ⟨-, hn, sp, pa, h1, h2⟩ := accessPart_ok hp
        rw [(makeParts_frame s true data m).2] at h1
        subst hy
        exact ⟨sp, pa, by rw [hn]; exact h1, h2⟩
    all_goals exact hm

/-- An explicit access that completes leaves what its parts made, and answers; its parts are at places that exist. -/
theorem doAccess_next {s t : State} {a : ExplicitAccess} {data : AccessData} {answer : List AccessPart → Output}
    (h : doAccess s a data answer = .next t) :
    ∃ m o, t = (s.makeParts a.simd data m).answer o ∧
      ∀ p ∈ m.parts, ∃ sp pa, physExists s.launch sp pa p.bytes = true ∧ p.key = memKey sp pa := by
  unfold doAccess at h
  simp only at h
  split at h
  · cases h; exact ⟨_, _, rfl, accessLoop_parts (by simp)⟩
  · cases h; exact ⟨_, _, rfl, accessLoop_parts (by simp)⟩
  · cases h
  · cases h

/-- An instruction that a step runs and that completes is one exec completes. -/
theorem stepInstr_next {s t : State} (h : stepInstr s = .next t) :
    ∃ i, exec i (s.noteExecuted.noteWalk (fetchBytes s).1) = .next t := by
  unfold stepInstr at h
  split at h
  · unfold runBytes at h; split at h
    · exact ⟨_, h⟩
    · cases h
  all_goals cases h

/-! ### Lists the TLB events use -/

theorem mem_of_mem_keepBits {α : Type} {l : List α} {k : Nat} {x : α} (h : x ∈ keepBits l k) : x ∈ l := by
  induction l generalizing k with
  | nil => simp [keepBits] at h
  | cons y ys ih =>
    unfold keepBits at h; split at h
    · rcases List.mem_cons.mp h with rfl | h
      · exact List.mem_cons_self
      · exact List.mem_cons_of_mem _ (ih h)
    · exact List.mem_cons_of_mem _ (ih h)

theorem mem_of_mem_dropAt {α : Type} {l : List α} {k : Nat} {x : α} (h : x ∈ dropAt l k) : x ∈ l := by
  induction l generalizing k with
  | nil => simp [dropAt] at h
  | cons y ys ih =>
    cases k with
    | zero => exact List.mem_cons_of_mem _ h
    | succ k =>
      rcases List.mem_cons.mp h with rfl | h
      · exact List.mem_cons_self
      · exact List.mem_cons_of_mem _ (ih h)

/-! ### Pending writes -/

/-- What reads observe does not depend on the mark of a read. -/
theorem observedByte_markRead (m : List Host.Cell) (k n : Nat) (ws : List PendingWrite) (mask j : Nat)
    (acc : Byte) : observedByte m (markRead k n ws) mask j acc = observedByte m ws mask j acc := by
  induction ws generalizing mask acc with
  | nil => rfl
  | cons v ws ih =>
    have hc : ∀ b : Bool, (if b then { v with readBack := true } else v).cells = v.cells := by
      intro b; cases b <;> rfl
    simp only [markRead, observedByte, ih, hc]

/-- A write of which something stays open was waiting: its open part is some of its bytes, each kept. -/
theorem mem_openPart {ord : PendingWrite → Bool} {ws : List PendingWrite} {w : PendingWrite}
    (h : w ∈ openPart ord ws) :
    ∃ v ∈ ws, w = { v with cells := w.cells } ∧ (∀ c ∈ w.cells, c ∈ v.cells) ∧
      ∀ c ∈ w.cells, (v.reduced || !ord v) = true := by
  induction ws with
  | nil => simp [openPart] at h
  | cons v ws ih =>
    unfold openPart at h
    rcases List.mem_cons.mp h with rfl | h
    · refine ⟨v, List.mem_cons_self, rfl, fun c hc => List.mem_of_mem_filter hc, fun c hc => ?_⟩
      have := List.of_mem_filter hc
      simp only [keeps, Bool.and_eq_true] at this
      exact this.2
    · obtain ⟨u, hu, hw⟩ := ih h; exact ⟨u, List.mem_cons_of_mem _ hu, hw⟩

/-- Each write keeps its place among the open parts. -/
theorem openPart_length (ord : PendingWrite → Bool) (ws : List PendingWrite) :
    (openPart ord ws).length = ws.length := by
  induction ws with
  | nil => rfl
  | cons v ws ih => simp [openPart, ih]

/-- What waits after a barrier was waiting: some of its bytes, each kept, and at least one. -/
theorem mem_settle_pending {s : State} {ord : PendingWrite → Bool} {w : PendingWrite}
    (h : w ∈ (s.settle ord).pendingWrites) :
    ∃ v ∈ s.pendingWrites, w = ({ v with cells := w.cells } : PendingWrite).settleBy ord ∧
      (∀ c ∈ w.cells, c ∈ v.cells) ∧ w.cells ≠ [] ∧ ∀ c ∈ w.cells, (v.reduced || !ord v) = true := by
  rw [State.settle_pendingWrites] at h
  obtain ⟨u, hu, rfl⟩ := List.mem_map.mp h
  rw [List.mem_filter] at hu
  obtain ⟨v, hv, h1, h2, h3⟩ := mem_openPart hu.1
  exact ⟨v, hv, congrArg _ h1, h2, (by simpa using hu.2 : u.cells ≠ []), h3⟩

/-- What is observed of a write for certain is some of its bytes. -/
theorem mem_orderedPart {ord : PendingWrite → Bool} {ws : List PendingWrite} {w : PendingWrite}
    (h : w ∈ orderedPart ord ws) : ∃ v ∈ ws, ∀ c ∈ w.cells, c ∈ v.cells := by
  induction ws with
  | nil => simp [orderedPart] at h
  | cons v ws ih =>
    unfold orderedPart at h
    rcases List.mem_cons.mp h with rfl | h
    · exact ⟨v, List.mem_cons_self, fun c hc => List.mem_of_mem_filter hc⟩
    · obtain ⟨u, hu, hw⟩ := ih h; exact ⟨u, List.mem_cons_of_mem _ hu, hw⟩

/-- A byte that memory lists after writes are committed was listed, or is one of theirs. -/
theorem mem_commitWrites {m : List Host.Cell} {ws : List PendingWrite} {c : Host.Cell}
    (h : c ∈ commitWrites m ws) : c ∈ m ∨ ∃ v ∈ ws, ∃ d ∈ v.cells, d.1 = c.1 := by
  induction ws generalizing m with
  | nil => exact .inl h
  | cons v ws ih =>
    rcases ih (m := memWriteCells m v.cells) h with h | ⟨u, hu, hc⟩
    · rcases mem_of_mem_memWriteCells h with ⟨d, hd, hc⟩ | h
      · exact .inr ⟨v, List.mem_cons_self, d, hd, hc⟩
      · exact .inl h
    · exact .inr ⟨u, List.mem_cons_of_mem _ hu, hc⟩

/-- The bytes of a place that exists exist. -/
theorem keyExists_of_physExists {l : Launch} {sp : Space} {pa n k : Nat} (h : physExists l sp pa n = true)
    (h1 : memKey sp pa ≤ k) (h2 : k < memKey sp pa + n) : KeyExists l k := by
  simp only [physExists, Bool.and_eq_true, decide_eq_true_eq] at h
  have hb : physBits l ≤ 56 := by unfold physBits; omega
  have h3 : 2 ^ physBits l ≤ 2 ^ 56 := Nat.pow_le_pow_right (by norm_num) hb
  unfold memKey at h1 h2
  have hsp : sp.toNat < if l.featRme then 4 else 2 := by
    cases sp <;> simp_all [Space.toNat, spaceExists] <;> split <;> omega
  have e : k = sp.toNat * 2 ^ 56 + (k - sp.toNat * 2 ^ 56) := by omega
  have hl : k - sp.toNat * 2 ^ 56 < 2 ^ physBits l := by omega
  constructor
  · omega
  · rw [e, Nat.mul_add_mod_self_right, Nat.mod_eq_of_lt (by omega)]; exact hl

/-! ### Encoding -/

/-- The four bytes of a word give the word back. -/
theorem wordOfBytes_extract (w : BitVec 32) :
    wordOfBytes (w.extractLsb' 0 8) (w.extractLsb' 8 8) (w.extractLsb' 16 8) (w.extractLsb' 24 8) = w := by
  unfold wordOfBytes
  ext i hi
  simp
  grind

/-- What a row of the opcode map gives. -/
theorem decodeOp_some {a : BitVec 3} {b : BitVec 4} {c : BitVec 3} {t : XReg} {i : Instr} (h : decodeOp a b c t = some i) :
    encodeOp i = (a, b, c) ∧ i.xt = t := by
  unfold decodeOp at h
  split at h <;> first | (cases h; exact ⟨rfl, rfl⟩) | cases h

/-- What a word that decodes holds. -/
theorem decode_ok {w : BitVec 32} {i : Instr} (h : decode w = .ok i) :
    w.extractLsb' 19 13 = 0b1101010100001#13 ∧ w.extractLsb' 12 4 = 0b0111#4 ∧
    decodeOp (w.extractLsb' 16 3) (w.extractLsb' 8 4) (w.extractLsb' 5 3)
      (decodeXt (w.extractLsb' 0 5)) = some i := by
  unfold decode at h
  split at h
  · cases h
  · split at h
    · cases h
    · rename_i h1 h2
      split at h
      · rename_i h3; cases h; exact ⟨by simpa using h1, by simpa using h2, h3⟩
      · cases h

end Sys2Proof.Machine
end

