-- ==== Sys2Proof/Laws/PerInstr.lean ====
section
/-! SUPPORT. Statements for all instructions, one lemma for each constructor: the bits of its word that the opcode map
fixes (spec/30_encoding.md R134, R136). -/

namespace Sys2Proof.Laws

/-- The match value of each row of the opcode map (R136). -/
def rowWord : Instr → BitVec 32
  | .atS1E1R _ => 0xD5087800
  | .atS1E1W _ => 0xD5087820
  | .atS1E0R _ => 0xD5087840
  | .atS1E0W _ => 0xD5087860
  | .atS1E1RP _ => 0xD5087900
  | .atS1E1WP _ => 0xD5087920
  | .atS1E1A _ => 0xD5087940
  | .atS1E2R _ => 0xD50C7800
  | .atS1E2W _ => 0xD50C7820
  | .atS12E1R _ => 0xD50C7880
  | .atS12E1W _ => 0xD50C78A0
  | .atS12E0R _ => 0xD50C78C0
  | .atS12E0W _ => 0xD50C78E0
  | .atS1E2A _ => 0xD50C7940
  | .atS1E3R _ => 0xD50E7800
  | .atS1E3W _ => 0xD50E7820
  | .atS1E3A _ => 0xD50E7940

/-- An instruction's word is its row's match value with the number of its operand in the field Rt. -/
def FixedBits.Statement (i : Instr) : Prop :=
  encode i = rowWord i ||| (encodeXt i.xt).setWidth 32 ∧ encode i &&& 0xFFFFFFE0#32 = rowWord i

/-- What the statement of an instruction comes to: 32 values of the field Rt. -/
theorem fixedBits_of {i : Instr}
    (h : ∀ r : BitVec 5,
      0b1101010100001#13 ++ (encodeOp i).1 ++ 0b0111#4 ++ (encodeOp i).2.1 ++ (encodeOp i).2.2 ++ r =
          rowWord i ||| r.setWidth 32 ∧
        (0b1101010100001#13 ++ (encodeOp i).1 ++ 0b0111#4 ++ (encodeOp i).2.1 ++ (encodeOp i).2.2 ++ r) &&&
          0xFFFFFFE0#32 = rowWord i) : FixedBits.Statement i :=
  h (encodeXt i.xt)

theorem FixedBits.atS1E1R (t : XReg) : FixedBits.Statement (.atS1E1R t) :=
  fixedBits_of (by simp only [encodeOp, rowWord]; decide)

theorem FixedBits.atS1E1W (t : XReg) : FixedBits.Statement (.atS1E1W t) :=
  fixedBits_of (by simp only [encodeOp, rowWord]; decide)

theorem FixedBits.atS1E0R (t : XReg) : FixedBits.Statement (.atS1E0R t) :=
  fixedBits_of (by simp only [encodeOp, rowWord]; decide)

theorem FixedBits.atS1E0W (t : XReg) : FixedBits.Statement (.atS1E0W t) :=
  fixedBits_of (by simp only [encodeOp, rowWord]; decide)

theorem FixedBits.atS1E1RP (t : XReg) : FixedBits.Statement (.atS1E1RP t) :=
  fixedBits_of (by simp only [encodeOp, rowWord]; decide)

theorem FixedBits.atS1E1WP (t : XReg) : FixedBits.Statement (.atS1E1WP t) :=
  fixedBits_of (by simp only [encodeOp, rowWord]; decide)

theorem FixedBits.atS1E1A (t : XReg) : FixedBits.Statement (.atS1E1A t) :=
  fixedBits_of (by simp only [encodeOp, rowWord]; decide)

theorem FixedBits.atS1E2R (t : XReg) : FixedBits.Statement (.atS1E2R t) :=
  fixedBits_of (by simp only [encodeOp, rowWord]; decide)

theorem FixedBits.atS1E2W (t : XReg) : FixedBits.Statement (.atS1E2W t) :=
  fixedBits_of (by simp only [encodeOp, rowWord]; decide)

theorem FixedBits.atS12E1R (t : XReg) : FixedBits.Statement (.atS12E1R t) :=
  fixedBits_of (by simp only [encodeOp, rowWord]; decide)

theorem FixedBits.atS12E1W (t : XReg) : FixedBits.Statement (.atS12E1W t) :=
  fixedBits_of (by simp only [encodeOp, rowWord]; decide)

theorem FixedBits.atS12E0R (t : XReg) : FixedBits.Statement (.atS12E0R t) :=
  fixedBits_of (by simp only [encodeOp, rowWord]; decide)

theorem FixedBits.atS12E0W (t : XReg) : FixedBits.Statement (.atS12E0W t) :=
  fixedBits_of (by simp only [encodeOp, rowWord]; decide)

theorem FixedBits.atS1E2A (t : XReg) : FixedBits.Statement (.atS1E2A t) :=
  fixedBits_of (by simp only [encodeOp, rowWord]; decide)

theorem FixedBits.atS1E3R (t : XReg) : FixedBits.Statement (.atS1E3R t) :=
  fixedBits_of (by simp only [encodeOp, rowWord]; decide)

theorem FixedBits.atS1E3W (t : XReg) : FixedBits.Statement (.atS1E3W t) :=
  fixedBits_of (by simp only [encodeOp, rowWord]; decide)

theorem FixedBits.atS1E3A (t : XReg) : FixedBits.Statement (.atS1E3A t) :=
  fixedBits_of (by simp only [encodeOp, rowWord]; decide)

end Sys2Proof.Laws
end

