-- ==== Sys2Proof/Laws/Stops.lean ====
section
/-! SUPPORT. Why a translation stops without a result and without an MMU fault: one lemma for each of its parts. -/

namespace Sys2Proof.Machine

/-- A continued part stops where the first or the second does. -/
theorem Res.bind_stop {α β : Type} {x : Res α} {f : α → Res β} {e : Fault} :
    x.bind f = .stop e ↔ x = .stop e ∨ ∃ a, x = .ok a ∧ f a = .stop e := by cases x <;> simp [Res.bind]

/-- The reasons for which a walk may stop: an address that does not exist, or too many lookups. -/
def WalkStop (e : Fault) : Prop := e = .walkTooLong ∨ ∃ sp pa, e = .noSuchAddress sp pa

/-- What a descriptor does is no stop. -/
theorem descStep_ne_stop {c p d mro ia e} : descStep c p d mro ia ≠ .stop e := by
  intro h
  cases d <;> simp only [descStep, v8Table, v9Table, leafStep] at h <;> (repeat' split at h) <;> cases h

/-- An open point is no stop. -/
theorem openPoint_ne_stop {s p c a ia e} : openPoint s p c a ia ≠ .stop e := by
  intro h; unfold openPoint at h; (repeat' split at h) <;> cases h

/-- The start of a walk is no stop. -/
theorem startWalk_ne_stop {s c a ia e} : startWalk s c a ia ≠ .stop e := by
  intro h
  unfold startWalk v8Begin v9Begin at h
  (repeat' split at h) <;> first | exact openPoint_ne_stop h | cases h | skip
  all_goals (simp only at h; split at h <;> cases h)

/-- A lookup stops only where its descriptor's address does not exist. -/
theorem lookup_stop {e : WalkEnv} {c p at_ ia f} (h : lookup e c p at_ ia = .stop f) : WalkStop f := by
  unfold lookup at h
  split at h
  · cases h
  · rcases Res.bind_stop.mp h with h | ⟨_, _, h⟩
    · unfold ttdRead at h; split at h <;> cases h; exact .inr ⟨_, _, rfl⟩
    · cases h

/-- The lookups of a stage stop only so. -/
theorem walkLoop_stop {e c place ia n p f} (hp : ∀ p f, (place p).2 = .stop f → WalkStop f)
    (h : (walkLoop e c place ia n p).2 = .stop f) : WalkStop f := by
  induction n generalizing p with
  | zero => cases h; exact .inl rfl
  | succ n ih =>
    rcases Traced.bind_stop.mp h with h | ⟨at_, -, h⟩
    · exact hp _ _ h
    rcases Traced.bind_stop.mp h with h | ⟨d, -, h⟩
    · exact lookup_stop h
    rcases Traced.bind_stop.mp h with h | ⟨x, -, h⟩
    · exact absurd h descStep_ne_stop
    · cases x with
      | go p' => exact ih h
      | done r => cases h

/-- What follows a walk step stops only so. -/
theorem walkFrom_stop {e c place ia x f} (hp : ∀ p f, (place p).2 = .stop f → WalkStop f) (hx : x ≠ .stop f)
    (h : (walkFrom e c place ia x).2 = .stop f) : WalkStop f := by
  rcases Traced.bind_stop.mp h with h | ⟨y, -, h⟩
  · exact absurd h hx
  · cases y with
    | go p => exact walkLoop_stop hp h
    | done r => cases h

/-- A stage stops only so. -/
theorem runStage_stop {e c place ia a epd f} (hp : ∀ p f, (place p).2 = .stop f → WalkStop f)
    (h : (runStage e c place ia a epd).2 = .stop f) : WalkStop f := by
  rcases runStage_cases e c place ia a epd with hr | hr | ⟨t, -, -, -, hr⟩ <;> rw [hr] at h
  · cases h
  · exact walkFrom_stop hp startWalk_ne_stop h
  · exact walkFrom_stop hp descStep_ne_stop h

/-- A place that is not translated never stops. -/
theorem placeOf_stop (p : WalkPos) (f : Fault) (h : (placeOf p).2 = .stop f) : WalkStop f := by cases h

/-- Stage 2 of an address stops only so. -/
theorem stage2_stop {e ss use ipa sp f} (h : (stage2 e ss use ipa sp).2 = .stop f) : WalkStop f := by
  rcases Traced.bind_stop.mp h with h | ⟨d, -, h⟩
  · exact runStage_stop placeOf_stop h
  · split at h <;> cases h

/-- The place of a stage 1 descriptor stops only so. -/
theorem stage1Place_stop (e : WalkEnv) (c : WalkCfg) (p : WalkPos) (f : Fault)
    (h : (stage1Place e c p).2 = .stop f) : WalkStop f := by
  unfold stage1Place at h
  split at h
  · rcases Traced.bind_stop.mp h with h | ⟨d, -, h⟩
    · exact stage2_stop h
    · rcases Traced.bind_stop.mp h with h | ⟨u, -, h⟩
      · unfold tablePolicy at h; split at h <;> cases h
      · cases h
  · exact placeOf_stop p f h

/-- Stage 1 of a request stops only so. -/
theorem firstStage_stop {s r force q f} (h : (firstStage s r force q).2 = .stop f) : WalkStop f := by
  unfold firstStage at h
  split at h
  · unfold flatStage1 at h; split at h <;> cases h
  · unfold stage1 at h
    simp only at h
    split at h
    · split at h
      · cases h
      · split at h
        · cases h
        · exact runStage_stop (stage1Place_stop _ _) h
    · split at h
      · exact walkFrom_stop placeOf_stop openPoint_ne_stop h
      · exact runStage_stop (stage1Place_stop _ _) h

/-- One pass of a translation stops only so. -/
theorem attempt_stop {s r force q f} (h : (attempt s r force q).2 = .stop f) : WalkStop f := by
  rcases Traced.bind_stop.mp h with h | ⟨t, -, h⟩
  · rcases Traced.bind_stop.mp h with h | ⟨o, -, h⟩
    · exact firstStage_stop h
    · unfold secondStage at h
      split at h
      · cases h
      · split at h
        · rcases Traced.bind_stop.mp h with h | ⟨d, -, h⟩
          · exact stage2_stop h
          · cases h
        · cases h
  · unfold permCheck at h
    rw [Traced.pure_snd] at h
    (repeat' split at h) <;> cases h

/-- A judged translation stops only at an address that does not exist, or for too many lookups. -/
theorem translateJudged_stop {s q judge f} (h : (translateJudged s q judge).2 = .stop f) : WalkStop f := by
  obtain ⟨force, hf⟩ := translateJudged_attempt s q judge
  rw [hf, judged_stop] at h
  exact attempt_stop h

/-- A translation stops only at an address that does not exist, or for too many lookups. -/
theorem translateAddress_stop {s q f} (h : (translateAddress s q).2 = .stop f) : WalkStop f := by
  obtain ⟨force, hf⟩ := translateAddress_attempt s q
  rw [hf] at h
  exact attempt_stop h

end Sys2Proof.Machine
end

