-- ==== Sys2Proof/Tests/Slice0.lean ====
section
/-! SUPPORT. Tests: expected results from spec/95_test_vectors.md or worked out by hand from the rules; and for every
statement that has hypotheses a state that meets them. -/

namespace Sys2Proof.Tests

set_option Elab.async false

open Sys2Proof.Machine

/-! ### States (programs P1 and P4 of spec/95_test_vectors.md) -/

/-- The premises of the vectors: CheckPerms the identity, faults reported, FEAT_THE absent. -/
def launch : Launch :=
  { Launch.atReset with
    checkPermsIdentity := true, atFaults := .report, featThe := false, paSize := 48
    tnszOutOfRange := .refuse, s2InputOutOfRange := .refuse, oneRangeVa := .refuse }

/-- 8-byte values in memory. -/
def mem8 (sp : Space) (l : List (Nat × Nat)) : List Host.Cell :=
  l.foldr (fun p m => storeBytes m (memKey sp p.1) (bytesOfDesc false 8 p.2)) []

/-- The tables of P1. -/
def tables : List (Nat × Nat) :=
  [(0x80000008, 0x80001003), (0x80000010, 0x80000001), (0x80001008, 0x80002003), (0x80002018, 0x90005003)]

/-- The tables of P4. -/
def tables2 : List (Nat × Nat) :=
  [(0x100000010, 0xC0000001), (0xC0000008, 0x80001003), (0xC0001008, 0x80002003), (0xC0002018, 0x90005003)]

/-- The attributes that table lookups have at reset. -/
def tableMem : Attrs := .normal .nonCacheable .nonCacheable .nonShareable none none

/-- A Block descriptor given by value, so that nothing of it is free. -/
def leaf : LeafDesc := ⟨0x80000000, tableMem, 0, .nonSecure, false, false, false, false, false⟩

/-- A Non-secure context of P1, at a level, with this value in X0 and X3. -/
def p1 (el : EL) (x : Word) : State :=
  { State.reset with
    launch := launch, el := el, xs := ((Vector.replicate 31 0).set 0 x).set 3 x
    mem := mem8 .nonSecure tables
    regs :=
      { SysRegs.atReset with
        scrEl3 := ⟨false, true⟩, sctlrEl1 := ⟨true, false, false⟩
        ttbr0El1 := ⟨0x80000000, 0, 0⟩, tcrEl1 := { Tcr.zero with t0sz := 25 }
        sctlrEl2 := ⟨true, false, false⟩
        ttbr0El2 := ⟨0x80000000, 0, 0⟩, tcrEl2 := { Tcr.zero with t0sz := 25 }
        sctlrEl3 := ⟨true, false, false⟩
        ttbr0El3 := ⟨0x80000000, 0, 0⟩, tcrEl3 := { Tcr.zero with t0sz := 25 } } }

/-- P1 with EL2 not enabled. -/
def p1NoEl2 (el : EL) (x : Word) : State :=
  { p1 el x with
    regs := { (p1 el x).regs with
      unnamed := { SysRegs.atReset.unnamed with el2EnabledSecure := false, el2EnabledNonSecure := false } } }

/-- P1 in Root space, for EL3. -/
def p1Root (x : Word) : State := { p1 .el3 x with mem := mem8 .root tables }

/-- P4: two stages, at EL2. The stage 2 Block is given by value: its attributes are these. -/
def p4 (x : Word) (attrs : Attrs := tableMem) : State :=
  { p1 .el2 x with
    launch := { launch with
      descRows := [⟨.vmsav8, .s2, 0xC0000001, .block { leaf with oab := 0xC0000000, attrs := attrs }⟩] }
    mem := mem8 .nonSecure tables2
    regs := { (p1 .el2 x).regs with
      hcrEl2 := ⟨true, false, false, false⟩
      vtcrEl2 := { SysRegs.atReset.vtcrEl2 with t0sz := 24, sl0 := 1 }
      vttbrEl2 := ⟨0x100000000, 0, 0⟩ } }

/-- All stages disabled, at a level. -/
def flat (el : EL) (x : Word) : State := { State.reset with el := el, xs := Vector.replicate 31 x }

/-- The same with the launch of the vectors and a Security state below EL3. -/
def flatNs (el : EL) (x : Word) : State :=
  { flat el x with launch := launch, regs := { SysRegs.atReset with scrEl3 := ⟨false, true⟩ } }

/-- PAR_EL1.PA of an outcome that reports a result. -/
def paOf (o : Host.Outcome State Fault Refusal) : Option PAddr :=
  match o with
  | .next t => (match t.par.body with
    | .result pa _ _ => some pa
    | .report _ => none)
  | _ => none

/-- PAR_EL1.F of an outcome. -/
def fOf (o : Host.Outcome State Fault Refusal) : Option Bool :=
  match o with
  | .next t => some t.par.f
  | _ => none

/-- The next state of an outcome, or the state it came from. -/
def nextOr (s : State) (o : Host.Outcome State Fault Refusal) : State :=
  match o with
  | .next t => t
  | _ => s

/-- The kind, level and stage of the fault of a translation. -/
def faultOf {α : Type} (x : Traced α) : Option (FaultKind × Int × Stage) :=
  match x.2 with
  | .mmu f => some (f.kind, f.level, f.stage)
  | _ => none

/-! ### Well-formedness: what the check refuses -/

/-- There is no X31 (G3). -/
theorem test_x31_is_ill_formed : (Instr.atS1E1R (.x 31)).wellFormed = false := by decide

theorem test_x30_and_xzr_are_well_formed :
    (Instr.atS1E1R (.x 30)).wellFormed = true ∧ (Instr.atS1E1R .zr).wellFormed = true := by decide

/-- `AT S12E1RP`: `<pan>` is not permitted (R131). -/
theorem test_s12e1rp_is_not_permitted : AtForm.panPermitted ⟨.s12, .e1, .read true⟩ = false := by decide

/-- `AT S12E2R` is a name of the grammar but not of the list (R132). -/
theorem test_s12e2r_is_not_listed : AtForm.listed ⟨.s12, .e2, .read false⟩ = false := by decide

/-! ### Decoding: words written out from the fields of R134 and the rows of R136 -/

theorem test_decode_s1e1r :
    decode 0b1101010100001_000_0111_1000_000_00000 = .ok (.atS1E1R (.x 0)) := by decide

theorem test_decode_s1e1w :
    decode 0b1101010100001_000_0111_1000_001_00001 = .ok (.atS1E1W (.x 1)) := by decide

theorem test_decode_s1e0r :
    decode 0b1101010100001_000_0111_1000_010_00010 = .ok (.atS1E0R (.x 2)) := by decide

theorem test_decode_s1e0w :
    decode 0b1101010100001_000_0111_1000_011_00011 = .ok (.atS1E0W (.x 3)) := by decide

theorem test_decode_s1e1rp :
    decode 0b1101010100001_000_0111_1001_000_00100 = .ok (.atS1E1RP (.x 4)) := by decide

theorem test_decode_s1e1wp :
    decode 0b1101010100001_000_0111_1001_001_00101 = .ok (.atS1E1WP (.x 5)) := by decide

theorem test_decode_s1e1a :
    decode 0b1101010100001_000_0111_1001_010_00110 = .ok (.atS1E1A (.x 6)) := by decide

theorem test_decode_s1e2r :
    decode 0b1101010100001_100_0111_1000_000_00111 = .ok (.atS1E2R (.x 7)) := by decide

theorem test_decode_s1e2w :
    decode 0b1101010100001_100_0111_1000_001_01000 = .ok (.atS1E2W (.x 8)) := by decide

theorem test_decode_s12e1r :
    decode 0b1101010100001_100_0111_1000_100_01001 = .ok (.atS12E1R (.x 9)) := by decide

theorem test_decode_s12e1w :
    decode 0b1101010100001_100_0111_1000_101_01010 = .ok (.atS12E1W (.x 10)) := by decide

theorem test_decode_s12e0r :
    decode 0b1101010100001_100_0111_1000_110_01011 = .ok (.atS12E0R (.x 11)) := by decide

theorem test_decode_s12e0w :
    decode 0b1101010100001_100_0111_1000_111_01100 = .ok (.atS12E0W (.x 12)) := by decide

theorem test_decode_s1e2a :
    decode 0b1101010100001_100_0111_1001_010_01101 = .ok (.atS1E2A (.x 13)) := by decide

theorem test_decode_s1e3r :
    decode 0b1101010100001_110_0111_1000_000_11101 = .ok (.atS1E3R (.x 29)) := by decide

theorem test_decode_s1e3w :
    decode 0b1101010100001_110_0111_1000_001_11110 = .ok (.atS1E3W (.x 30)) := by decide

theorem test_decode_s1e3a :
    decode 0b1101010100001_110_0111_1001_010_11111 = .ok (.atS1E3A .zr) := by decide

/-- op2 = 100 with op1 = 000 is in no row; CRn = 1000 is TLBI's; DSB is no SYS instruction. -/
theorem test_decode_refuses :
    decode 0b1101010100001_000_0111_1000_100_00000 = .error (.noOperation 0b000 0b1000 0b100) ∧
    decode 0xD5088300 = .error (.notAtSpace 0xD5088300) ∧
    decode 0xD5033B9F = .error (.notSys 0xD5033B9F) := by decide

/-- Words are little-endian in memory (R134). -/
theorem test_decode_bytes :
    decodeBytes [0x80, 0x78, 0x0C, 0xD5, 0xDF] = .ok (.atS12E1R (.x 0), [0xDF]) ∧
    decodeBytes [0x80, 0x78, 0x0C] = .error (.tooShort 3) := by decide

theorem test_assembly : (Instr.atS12E0W (.x 7)).assembly = "AT S12E0W, X7" := by decide

/-! ### One vector for each operation (V7.4) -/

theorem test_s1e1r : paOf (exec (.atS1E1R (.x 0)) (p1NoEl2 .el1 0x40203ABC)) = some 0x90005ABC := by
  decide +kernel

theorem test_s1e1w : paOf (exec (.atS1E1W (.x 0)) (p1NoEl2 .el1 0x40203ABC)) = some 0x90005ABC := by
  decide +kernel

theorem test_s1e0r : paOf (exec (.atS1E0R (.x 0)) (p1NoEl2 .el1 0x40203ABC)) = some 0x90005ABC := by
  decide +kernel

theorem test_s1e0w : paOf (exec (.atS1E0W (.x 0)) (p1NoEl2 .el1 0x40203ABC)) = some 0x90005ABC := by
  decide +kernel

theorem test_s1e1rp : paOf (exec (.atS1E1RP (.x 0)) (p1NoEl2 .el1 0x40203ABC)) = some 0x90005ABC := by
  decide +kernel

theorem test_s1e1wp : paOf (exec (.atS1E1WP (.x 0)) (p1NoEl2 .el1 0x40203ABC)) = some 0x90005ABC := by
  decide +kernel

theorem test_s1e1a : paOf (exec (.atS1E1A (.x 0)) (p1NoEl2 .el1 0x40203ABC)) = some 0x90005ABC := by
  decide +kernel

/-- At EL2 with stage 2 as P4, S1E1R gives the IPA. -/
theorem test_s1e1r_gives_the_ipa : paOf (exec (.atS1E1R (.x 0)) (p4 0x40203ABC)) = some 0x90005ABC := by
  decide +kernel

theorem test_s12e1r : paOf (exec (.atS12E1R (.x 0)) (p4 0x40203ABC)) = some 0xD0005ABC := by decide +kernel

theorem test_s12e1w : paOf (exec (.atS12E1W (.x 0)) (p4 0x40203ABC)) = some 0xD0005ABC := by decide +kernel

theorem test_s12e0r : paOf (exec (.atS12E0R (.x 0)) (p4 0x40203ABC)) = some 0xD0005ABC := by decide +kernel

theorem test_s12e0w : paOf (exec (.atS12E0W (.x 0)) (p4 0x40203ABC)) = some 0xD0005ABC := by decide +kernel

theorem test_s1e2r : paOf (exec (.atS1E2R (.x 0)) (p1 .el2 0x40203ABC)) = some 0x90005ABC := by decide +kernel

theorem test_s1e2w : paOf (exec (.atS1E2W (.x 0)) (p1 .el2 0x40203ABC)) = some 0x90005ABC := by decide +kernel

theorem test_s1e2a : paOf (exec (.atS1E2A (.x 0)) (p1 .el2 0x40203ABC)) = some 0x90005ABC := by decide +kernel

theorem test_s1e3r : paOf (exec (.atS1E3R (.x 0)) (p1Root 0x40203ABC)) = some 0x90005ABC := by decide +kernel

theorem test_s1e3w : paOf (exec (.atS1E3W (.x 0)) (p1Root 0x40203ABC)) = some 0x90005ABC := by decide +kernel

theorem test_s1e3a : paOf (exec (.atS1E3A (.x 0)) (p1Root 0x40203ABC)) = some 0x90005ABC := by decide +kernel

/-- An Invalid level 3 entry: Fault(Translation, level 3, stage 1), reported with F 1. -/
theorem test_invalid_entry_is_reported :
    fOf (exec (.atS1E1R (.x 0)) (p1NoEl2 .el1 0x40204000)) = some true ∧
    faultOf (translateAddress (p1NoEl2 .el1 0x40204000)
      (atRequest (p1NoEl2 .el1 0).regs .nonSecure ⟨.s1, .e1, .read false⟩ 0x40204000)) =
      some (.translation, 3, .s1) := by decide +kernel

/-- P4 with the stage 2 Block cleared: Fault(Translation, level 1, stage 2) for S12E1R and for S1E1R. -/
theorem test_stage2_fault_on_a_table_read :
    faultOf (translateAddress { p4 0 with mem := [] }
      (atRequest (p4 0).regs .nonSecure ⟨.s12, .e1, .read false⟩ 0x40203ABC)) = some (.translation, 1, .s2) ∧
    faultOf (translateAddress { p4 0 with mem := [] }
      (atRequest (p4 0).regs .nonSecure ⟨.s1, .e1, .read false⟩ 0x40203ABC)) = some (.translation, 1, .s2) := by
  decide +kernel

/-- R94, D16: with its tables in memory that stage 2 maps as Device the walk is refused. -/
theorem test_tables_in_device_memory_are_refused :
    (match exec (.atS12E1R (.x 0)) (p4 0x40203ABC (.deviceNGnRnE none)) with
     | .refused r => r == .deviceTable
     | _ => false) = true := by decide +kernel

/-- R93, D16: an access of software to a descriptor as Device memory, and a later one that matches: the walk is
refused. -/
theorem test_mismatched_tables_are_refused :
    (match exec (.atS1E1R (.x 0)) { p1NoEl2 .el1 0x40203ABC with
        softAccesses := [⟨memKey .nonSecure 0x80000008, 8, tableMem, false⟩,
          ⟨memKey .nonSecure 0x8000000C, 4, .deviceNGnRnE none, true⟩] } with
     | .refused r => r == .mismatchedAttributes
     | _ => false) = true := by decide +kernel

/-- R93, D16: a walk records the descriptors it reads, the latest first, and a later access of software to one of
them as Device memory is refused. -/
theorem test_access_after_a_mismatched_walk_is_refused :
    (nextOr (p1NoEl2 .el1 0x40203ABC) (exec (.atS1E1R (.x 0)) (p1NoEl2 .el1 0x40203ABC))).tableReads.map
        (fun x => (x.key, x.bytes)) =
      [(memKey .nonSecure 0x80002018, 8), (memKey .nonSecure 0x80001008, 8), (memKey .nonSecure 0x80000008, 8)] ∧
    (match applyEvent { flatNs .el1 0 with tableReads := [⟨memKey .nonSecure 0x8000, 8, .zero⟩] }
        (.memRead { va := 0x8004, size := 2, privileged := true, gcs := false, usePan := true, simd := false }) with
     | .refused r => r == .mismatchedAttributes
     | _ => false) = true := by decide +kernel

/-- R579: a TLB fill whose walk reads a descriptor that software accessed as Device memory is refused; one of tables
accessed as the lookups are is not. -/
theorem test_fill_of_mismatched_tables_is_refused :
    (let s := p1NoEl2 .el1 0
     let acc : Access := ⟨.read, true, true, false, true⟩
     let fill := fun (attrs : Attrs) =>
       applyEvent { s with softAccesses := [⟨memKey .nonSecure 0x8000000C, 4, attrs, true⟩] }
         (.tlbFill acc .el10 0x40203ABC 0)
     (match fill (.deviceNGnRnE none) with
      | .refused r => r == .mismatchedAttributes
      | _ => false) &&
     (match fill tableMem with
      | .next t => t.tableReads.length == 3
      | _ => false)) = true := by decide +kernel

/-- R113, R115: another PE's RCWS write with PTTWI 1 goes on waiting after that PE's barrier; one without the property
does not. -/
theorem test_others_reduced_write_stays_unobserved :
    (let s := flatNs .el1 0
     let waiting := fun (reduced : Bool) =>
       let w := nextOr s (applyEvent s (.otherWrite .nonSecure 0x8000 [1, 2] reduced))
       (nextOr w (applyEvent w .otherDsb)).pendingWrites.length
     (waiting true, waiting false)) = (1, 0) := by decide +kernel

/-- R85: where an open point gives the place of a descriptor, it is aligned as the address it came from. -/
theorem test_open_result_keeps_alignment :
    (openResult (stage2Cfg launch (p4 0).regs .nonSecure .nonSecure) false 0x80001008 0x12345 .nonSecure tableMem 0 0
      false false false false false).oa = 0x12348 := by decide +kernel

/-- R242: MRO of an overlay, where Stage 2 Overlay permissions are disabled and where it is asked of stage 1. -/
theorem test_overlay_gives_mro_only_where_enabled :
    overlayMro SysRegs.atReset (decodeCtx (stage2Cfg launch (p4 0).regs .nonSecure .nonSecure) 1) 1 = false ∧
    overlayMro { SysRegs.atReset with unnamed := { SysRegs.atReset.unnamed with s2Overlay := true } }
      (decodeCtx (stage1Cfg launch (p4 0).regs .el10 .nonSecure false) 1) 1 = false ∧
    (Desc.block leaf).withOverlay true = .block { leaf with mro := true } := by decide +kernel

/-- The formats of PAR_EL1, and what an instruction leaves. -/
theorem test_par_format_and_frame :
    (match exec (.atS1E1R (.x 3)) (p1NoEl2 .el1 0x40203ABC) with
     | .next t => t.par.format == .bits64 && t.pc == 4 && t.xs == (p1NoEl2 .el1 0x40203ABC).xs && t.el == .el1
     | _ => false) = true := by decide +kernel

/-! ### Where each operation executes (V7.3) -/

/-- The outcome is UNDEFINED. -/
def isUndefined (o : Host.Outcome State Fault Refusal) : Bool :=
  match o with
  | .fault f => f == .undefined
  | _ => false

/-- The operations that are UNDEFINED in a state. -/
def undefinedIn (s : State) : List AtForm :=
  operations.filter fun f => isUndefined (execAt f (.x 0) s)

theorem test_undefined_at_el0 : undefinedIn (flatNs .el0 0) = operations := by decide +kernel

theorem test_undefined_at_el1 :
    (undefinedIn (flatNs .el1 0)).map AtForm.name =
      ["S12E1R", "S12E1W", "S12E0R", "S12E0W", "S1E2R", "S1E2W", "S1E3R", "S1E3W", "S1E2A", "S1E3A"] := by
  decide +kernel

theorem test_undefined_at_el2 :
    (undefinedIn (flatNs .el2 0)).map AtForm.name = ["S1E3R", "S1E3W", "S1E3A"] := by decide +kernel

theorem test_undefined_at_el3 : undefinedIn (flatNs .el3 0) = [] := by decide +kernel

/-- {NSE, NS} = {1, 1}: Realm, but not without FEAT_RME (R471, R531). -/
theorem test_realm_only_with_rme :
    ([true, false].map fun rme => scrState { launch with featRme := rme }
      { SysRegs.atReset with scrEl3 := ⟨true, true⟩ }) = [some .realm, some .nonSecure] := by decide +kernel

/-- R117: the walk of P1, where a Reduced Coherence write that a DSB has ordered makes its last descriptor Invalid and
TCR2_EL1.PTTWI is read-only 0, cannot ignore that write. -/
theorem test_no_reduced_coherence_where_pttwi_is_read_only :
    faultOf (translateAddress { p1NoEl2 .el1 0 with
        launch := { (p1NoEl2 .el1 0).launch with ro0Tcr2El1 := true }
        pendingWrites := [⟨cellsFrom (memKey .nonSecure 0x80002018) (bytesOfValue 8 0), true, true, false, false, true⟩] }
      (atRequest (p1NoEl2 .el1 0).regs .nonSecure ⟨.s1, .e1, .read false⟩ 0x40203ABC)) =
      some (.translation, 3, .s1) := by decide +kernel

/-- {NSE, NS} = {1, 0}, with FEAT_RME and without: every operation but those of EL3 (R471). -/
theorem test_undefined_without_security_state :
    ([true, false].map fun rme => operations.filter (fun f => !(undefinedIn { flatNs .el3 0 with
      launch := { launch with featRme := rme }
      regs := { SysRegs.atReset with scrEl3 := ⟨true, false⟩ } }).contains f)) =
      List.replicate 2 [⟨.s1, .e3, .read false⟩, ⟨.s1, .e3, .write false⟩, ⟨.s1, .e3, .ignore⟩] := by decide +kernel

/-! ### Ranges (V1) -/

/-- The stage 1 fault of a data read in EL1&0 with T0SZ = T1SZ = 16 and no tables. -/
def rangeFault (va : Word) : Option (FaultKind × Int × Stage) :=
  let r := { (p1NoEl2 .el1 0).regs with tcrEl1 := { Tcr.zero with t0sz := 16, t1sz := 16 } }
  faultOf (translateAddress { p1NoEl2 .el1 0 with regs := r, mem := [] }
    (atRequest r .nonSecure ⟨.s1, .e1, .read false⟩ va))

/-- V1.1: outside both ranges a level 0 fault; inside, the level 0 lookup finds an Invalid entry too, so the
two are told apart by where the range ends. -/
theorem test_ranges :
    (inLower 0xFFFFFFFFFFFF 16, inLower 0x1000000000000 16) = (true, false) ∧
    (inUpper 0xFFFEFFFFFFFFFFFF 16, inUpper 0xFFFF000000000000 16) = (false, true) ∧
    rangeFault 0x80000000000000 = some (.translation, 0, .s1) := by decide +kernel

/-- V1.5: bit 40 of the base with OAsize 40. -/
theorem test_base_address_size :
    v8BaseTooLarge 0x10000000000 40 false = true ∧ v8BaseTooLarge 0xFFFFFFF000 40 false = false := by decide

/-! ### Granules (V2 to V4) -/

theorem test_v2_start_levels :
    [(12, true, true), (15, true, false), (12, false, true), (16, false, false), (24, false, false),
      (25, false, false), (33, false, false), (34, false, false), (39, false, false), (40, false, false),
      (40, false, true), (42, false, true), (43, false, true), (48, false, true), (49, false, true)].map
        (fun x => s1Start4K x.1 x.2.1 x.2.2) =
      [some (-1), some (-1), none, some 0, some 0, some 1, some 1, some 2, some 2, none, some 2, some 2, some 3,
        some 3, none] := by decide

theorem test_v2_addresses :
    [v8DescAddr .g4K 0 true 16 48 0x80000000 0x804020100ABC, v8DescAddr .g4K 1 false 16 48 0x80001000 0x804020100ABC,
      v8DescAddr .g4K 2 false 16 48 0x80002000 0x804020100ABC,
      v8DescAddr .g4K 3 false 16 48 0x80003000 0x804020100ABC, v8DescAddr .g4K 1 true 32 48 0x8000003F 0xC0000000,
      v8DescAddr .g4K (-1) true 12 52 0x8000000000040 0xF000000000000,
      v8DescAddr .g4K 1 true 24 48 0x100001000 0x8040000000,
      v8DescAddr .g4K 0 true 12 48 0x200000000 0xFFF8000000000] =
    [0x80000800, 0x80001800, 0x80002800, 0x80003800, 0x80000038, 0x8000000000078, 0x100001008, 0x20000FFF8] := by
  decide +kernel

/-- The controls of a stage 2 walk for the vectors. -/
def s2c (g : Granule) (ds sl2 : Bool) (sl0 sz : Nat) (ttst lpa : Bool) : Option Int :=
  v8S2Start { stage2Cfg launch SysRegs.atReset .nonSecure .nonSecure with
    granule := g, ds := ds, sl2 := sl2, sl0 := sl0, sz := sz, ttst := ttst, lpa := lpa }

theorem test_v2_stage2_start :
    [s2c .g4K false false 1 24 false false, s2c .g4K false false 1 20 false false, s2c .g4K false false 2 16 false false,
      s2c .g4K false false 2 25 false false, s2c .g4K false false 0 30 false false, s2c .g4K false false 3 39 false false,
      s2c .g4K false false 3 39 true false, s2c .g4K true true 0 12 false false, s2c .g4K true true 1 12 false false,
      s2c .g4K true false 2 12 false false, s2c .g4K false true 0 34 false false] =
    [some 1, none, some 0, none, some 2, none, some 3, some (-1), none, some 0, some 2] := by decide +kernel

/-- V2.7. -/
theorem test_v2_blocks :
    v8FinalOa .g4K 1 false 0x80000000 0x80002020 = 0x80002020 ∧
    v8FinalOa .g4K 2 false 0x40200000 0x1FFABC = 0x403FFABC ∧ v8BlockAllowed .g4K 0 false false = false := by
  decide +kernel

theorem test_v3 :
    [s1Start16K 12 true false, s1Start16K 12 false false, s1Start16K 16 false false, s1Start16K 17 false false,
      s1Start16K 27 false false, s1Start16K 28 false false, s1Start16K 38 false false, s1Start16K 39 false false,
      s1Start16K 40 false false, s1Start16K 48 false true] =
      [some 0, none, some 0, some 1, some 1, some 2, some 2, some 3, none, some 3] ∧
    [v8DescAddr .g16K 0 true 16 48 0x80000010 0x80100600C123, v8DescAddr .g16K 1 false 16 48 0x80004000 0x80100600C123,
      v8DescAddr .g16K 2 false 16 48 0x80008000 0x80100600C123, v8DescAddr .g16K 3 false 16 48 0x8000C000 0x80100600C123,
      v8DescAddr .g16K 0 true 12 48 0x80000100 0xF800000000000, v8DescAddr .g16K 1 true 16 48 0x100000000 0x801000000000,
      v8DescAddr .g16K 2 true 24 48 0x100000000 0xFFFE000000, v8FinalOa .g16K 3 false 0x90004000 0x80100600C123] =
      [0x80000018, 0x80004008, 0x80008018, 0x8000C018, 0x800001F8, 0x100004008, 0x10003FFF8, 0x90004123] ∧
    [s2c .g16K false false 3 16 true false, s2c .g16K true false 3 12 true false, s2c .g16K false false 2 16 true false,
      s2c .g16K false false 2 15 true false, s2c .g16K false false 1 24 true false, s2c .g16K false false 1 23 true false,
      s2c .g16K false false 0 35 true false, s2c .g16K false false 0 40 false false] =
      [none, some 0, some 1, none, some 2, none, some 3, none] := by decide +kernel

theorem test_v4 :
    [s1Start64K 12 true false, s1Start64K 12 false false, s1Start64K 16 false false, s1Start64K 21 false false,
      s1Start64K 22 false false, s1Start64K 34 false false, s1Start64K 35 false false, s1Start64K 39 false false,
      s1Start64K 40 false false, s1Start64K 47 false true, s1Start64K 48 false true] =
      [some 1, none, some 1, some 1, some 2, some 2, some 3, some 3, none, some 3, none] ∧
    [v8DescAddr .g64K 1 true 16 48 0x80000200 0x042020034567, v8DescAddr .g64K 2 false 16 48 0x80010000 0x042020034567,
      v8DescAddr .g64K 3 false 16 48 0x80020000 0x042020034567, v8DescAddr .g64K 1 true 12 48 0x80002000 0xFFC0000000000,
      v8DescAddr .g64K 3 true 47 48 0x80000010 0x10000, v8DescAddr .g64K 2 true 24 48 0x100000000 0xFFE0000000,
      v8DescAddr .g64K 2 true 18 48 0x100000000 0x3FFFE0000000, v8FinalOa .g64K 3 false 0x90030000 0x042020034567] =
      [0x80000208, 0x80010808, 0x80020018, 0x80003FF8, 0x80000018, 0x100003FF8, 0x1000FFFF8, 0x90034567] ∧
    [s2c .g64K false false 3 24 true true, s2c .g64K false false 2 16 true false, s2c .g64K false false 2 12 true false,
      s2c .g64K false false 2 12 true true, s2c .g64K false false 1 18 true true, s2c .g64K false false 1 17 true true,
      s2c .g64K false false 0 31 true true, s2c .g64K false false 0 30 true true] =
      [none, some 1, none, some 1, some 2, none, some 3, none] := by decide +kernel

/-! ### FEAT_THE (V5) -/

/-- The checks of V5.1 and V5.2: state, mask, update of RCW, then of RCWS. -/
def rcwRow (prot : Bool) (old new : Raw) : List Bool :=
  let c := rcwCheckOf { launch with featThe := true }
    { SysRegs.atReset with tcr2El1 := ⟨prot, false⟩, rcwmaskEl1 := 0x400, rcwsmaskEl1 := 0x0780000000000000 }
    .el10 false old new
  [!rcwStateFail c, !rcwMaskFail c, rcwMayUpdate c, !rcwsStateFail c, !rcwsMaskFail c, rcwsMayUpdate c]

theorem test_v5_protected :
    rcwRow true 0x10000090005003 0x10000090005403 = [true, true, true, true, false, false] ∧
    rcwRow true 0x10000090005003 0x10000090005083 = [true, false, false, true, false, false] ∧
    rcwRow true 0x10000090005003 0x90000090005003 = [true, false, false, true, true, false] ∧
    rcwRow true 0x10000090005003 0x10000090005002 = [false, false, false, false, false, false] ∧
    rcwRow true 0x10000090005003 0x00000090005003 = [false, false, false, true, false, false] := by decide +kernel

theorem test_v5_others :
    rcwRow true 0x90005003 0 = [true, true, true, false, false, false] ∧
    rcwRow true 0x90005003 0x80000090005003 = [true, true, true, true, true, true] ∧
    rcwRow true 0x90005003 0x10000090005003 = [false, true, false, true, false, false] ∧
    rcwRow true 0x10000000000000 0x10000090005003 = [false, true, false, true, true, false] ∧
    rcwRow true 0x10000000000000 0x10000090005002 = [true, true, true, true, true, true] ∧
    rcwRow false 0x90005003 0x80000090005003 = [true, true, true, true, true, true] ∧
    rcwRow false 0x90005003 0x90005403 = [true, true, true, true, false, false] ∧
    rcwRow false 0 0x90005003 = [true, true, true, false, true, false] := by decide +kernel

/-- R224: the Protected bit is in no attribute or permission; R139: AssuredOnly acts as 0 under VMSAv9-128. -/
theorem test_protected_bit_is_no_attribute :
    (let c : DecodeCtx := decodeCtx { stage1Cfg { launch with featThe := true } SysRegs.atReset .el10 .nonSecure false with
       pnch := true } 3
     match decodeDesc { launch with featThe := true } SysRegs.atReset c 0x10000090005003,
         decodeDesc { launch with featThe := true } SysRegs.atReset c 0x90005003 with
     | .page p, .page q => p.prot && !q.prot && p.attrs == q.attrs && p.perms == q.perms && p.oab == q.oab
     | _, _ => false) = true ∧
    (decodeCtx { stage2Cfg launch SysRegs.atReset .nonSecure .nonSecure with
      system := .vmsav9, assuredOnly := true } 3).assuredOnly = false := by decide +kernel

/-! ### VMSAv9-128 (V6) -/

theorem test_v6_start_levels :
    [8, 11, 12, 19, 20, 28, 36, 44, 48, 7, 49].map (fun n => v9RegularStart .g4K n false) =
      [some (-2), some (-2), some (-1), some (-1), some 0, some 1, some 2, some 3, some 3, none, none] ∧
    [8, 9, 10, 19, 20, 30, 40, 48].map (fun n => v9RegularStart .g16K n false) =
      [some (-1), some (-1), some 0, some 0, some 1, some 2, some 3, some 3] ∧
    [8, 11, 12, 23, 24, 35, 36, 47, 48].map (fun n => v9RegularStart .g64K n false) =
      [some 0, some 0, some 1, some 1, some 2, some 2, some 3, some 3, none] := by decide +kernel

theorem test_v6_addresses :
    [v9StartAddr .g4K 16 (-1) 0x80000100 0xA5B4C3D2E1F0, v9NextAddr .g4K (-1) 0 0x80001000 0xA5B4C3D2E1F0,
      v9NextAddr .g4K 0 0 0x80002000 0xA5B4C3D2E1F0, v9NextAddr .g4K 1 0 0x80003000 0xA5B4C3D2E1F0,
      v9NextAddr .g4K 2 0 0x80004000 0xA5B4C3D2E1F0, v9FinalAddr .g4K 3 0x90005000 0xA5B4C3D2E1F0,
      v9StartAddr .g4K 16 0 0x80010000 0xA5B4C3D2E1F0, v9NextAddr .g4K (-1) 3 0x1000000000 0xA5B4C3D2E1F0,
      v9NextAddr .g4K 1 1 0x80100000 0xA5B4C3D2E1F0, v9StartAddr .g4K 8 (-2) 0x80000040 0xF0000000000000,
      v9StartAddr .g16K 17 0 0x80000080 0x700000000000, v9StartAddr .g64K 16 1 0x80001000 0xFF0000000000] =
    [0x800001A0, 0x800015B0, 0x800024C0, 0x800033D0, 0x800042E0, 0x900051F0, 0x8001A5B0, 0x15B4C3D2E0, 0x8013D2E0,
      0x800000F0, 0x800000F0, 0x80001FF0] := by decide +kernel

theorem test_v6_sizes :
    v9TableTooLarge .g4K 1 2 = true ∧ v9TableTooLarge .g4K 1 1 = false ∧ v9TableTooLarge .g64K 1 2 = true ∧
    v9SklInvalid .g64K 3 = true ∧ v9SklInvalid .g4K 3 = false := by decide +kernel

/-! ### Disabled stages (V7.1) -/

theorem test_v7_flat :
    exec (.atS1E1R (.x 0)) (flatNs .el1 0x12345678) =
      .next (afterAt (flatNs .el1 0x12345678)
        ⟨.bits64, .result 0x12345678 .nonSecure (.deviceNGnRnE (some true))⟩) := by rfl

theorem test_v7_fetch_attrs :
    disabledAttrs launch SysRegs.atReset .el10 .nonSecure .fetch =
      .normal .nonCacheable .nonCacheable .outerShareable none (some true) ∧
    disabledAttrs launch { SysRegs.atReset with sctlrEl1 := ⟨false, false, true⟩ } .el10 .nonSecure .fetch =
      .normal .writeThroughReadAlloc .writeThroughReadAlloc .outerShareable none (some true) := by decide +kernel

/-- OAsize 40 and VA bit 40: Fault(AddressSize, level 0, stage 1). -/
theorem test_v7_flat_address_size :
    faultOf (translateAddress { flatNs .el1 0 with
        regs := { SysRegs.atReset with unnamed := { SysRegs.atReset.unnamed with oaEl10 := 40 } } }
      (atRequest SysRegs.atReset .nonSecure ⟨.s1, .e1, .read false⟩ 0x10000000000)) =
      some (.addressSize, 0, .s1) := by decide +kernel

/-! ### Memory and the step (V8, P2) -/

/-- V8.1. -/
theorem test_v8_byte_order :
    valueOfBytes false [0x03, 0x10, 0, 0x80, 0, 0, 0, 0] = 0x80001003 ∧
    valueOfBytes true [0x03, 0x10, 0, 0x80, 0, 0, 0, 0] = 0x0310008000000000 := by decide

/-- The store of P2: X1 to the level 3 entry. -/
def store : Event :=
  .memWrite { va := 0x80002020, size := 3, privileged := true, gcs := false, usePan := true, simd := false }
    0x90006003

/-- P2 after the STR and the DSB: the Block that maps the tables is given by value, with their attributes. -/
def p2 : State :=
  let s := { p1NoEl2 .el1 0x40204000 with
    launch := { launch with descRows := [⟨.vmsav8, .s1, 0x80000001, .block leaf⟩] }
    inputs := [store, .dsb] }
  nextOr s (step (nextOr s (step s)))

/-- P2: the second AT finds the entry that the store made valid. -/
theorem test_p2 : paOf (exec (.atS1E1R (.x 0)) p2) = some 0x90006000 := by decide +kernel

/-- A step fetches, decodes and runs the word placed for it; register number 31 reads as zero. -/
theorem test_step_runs_the_placed_word :
    paOf (step ((flat .el3 0x1230).withFetchWord 32 0xD50E7802)) = some 0x1230 ∧
    paOf (step ((flat .el3 0x1230).withFetchWord 32 0xD50E781F)) = some 0 := by decide +kernel

/-- A word that is no AT instruction is refused by name. -/
theorem test_step_refuses_a_nop :
    (match step (State.reset.withFetchWord 32 0xD503201F) with
     | .refused r => r == .notAt (.notSys 0xD503201F)
     | _ => false) = true := by decide +kernel

/-! ### Witnesses: for each statement with hypotheses, a state and operands that meet them together -/

theorem witness_DecodeEncodeRoundTrip :
    (Instr.atS1E1R (.x 0)).wellFormed = true ∧ (Instr.atS1E3A (.x 30)).wellFormed = true ∧
    (Instr.atS12E0W .zr).wellFormed = true := by decide

theorem witness_EncodeDecodeRoundTrip :
    decode 0xD508781E = .ok (.atS1E1R (.x 30)) ∧ decode 0xD508781F = .ok (.atS1E1R .zr) := by decide

theorem witness_OperationsAreThoseListed : (⟨.s1, .e1, .read true⟩ : AtForm) ∈ operations := by decide

/-- Bytes of a result. -/
def bytesOf (x : Res (List Byte)) : List Byte :=
  match x with
  | .ok bs => bs
  | _ => []

theorem witness_StepRunsDecodedInstruction :
    ((flat .el3 0).withFetchWord 32 0xD50E781E).inputs = [] ∧
    (fetchBytes ((flat .el3 0).withFetchWord 32 0xD50E781E)).2 = .ok [0x1E, 0x78, 0x0E, 0xD5] ∧
    decodeBytes [0x1E, 0x78, 0x0E, 0xD5] = .ok (.atS1E3R (.x 30), []) := by decide +kernel

/-- Each case of R137, and an instruction in none. -/
theorem witness_AtUndefinedExactlyInItsCases :
    UndefinedAt (Instr.atS1E1A .zr).form { flatNs .el3 0 with launch := { launch with featAts1a := false } } ∧
    UndefinedAt (Instr.atS1E3R .zr).form (flatNs .el2 0) ∧
    UndefinedAt (Instr.atS1E1R .zr).form
      { flatNs .el3 0 with regs := { SysRegs.atReset with scrEl3 := ⟨true, false⟩ } } ∧
    UndefinedAt (Instr.atS1E2R .zr).form (p1NoEl2 .el3 0) ∧
    isUndefined (exec (.atS1E1R .zr) (flatNs .el1 0)) = false :=
  ⟨.inl (by decide +kernel), .inr (.inl (by decide +kernel)), .inr (.inr (.inl (by decide +kernel))),
    .inr (.inr (.inr ⟨.nonSecure, by decide +kernel, rfl, by decide +kernel⟩)), by decide +kernel⟩

theorem witness_AtBelowItsLevelIsUndefined :
    (flatNs .el1 0).el.toNat < (atLevel (Instr.atS1E2R .zr).form.el).toNat ∧ (flatNs .el0 0).el = .el0 ∧
    (Instr.atS12E0R .zr).form.stages = .s12 ∧ (flatNs .el1 0).el = .el1 := by decide +kernel

theorem witness_El2OperationsNeedEl2 :
    Instr.atS1E2A (.x 1) ∈ [Instr.atS1E2R (.x 1), .atS1E2W (.x 1), .atS1E2A (.x 1)] ∧
    targetState (p1NoEl2 .el3 0).launch (regsView (p1NoEl2 .el3 0) .atInstr) .e2 = some .nonSecure ∧
    el2Enabled (p1NoEl2 .el3 0).launch (regsView (p1NoEl2 .el3 0) .atInstr) .nonSecure = false := by decide +kernel

theorem executes_flatNs (i : Instr) (el : EL) (x : Word) (h : (minEl i.form).toNat ≤ el.toNat) (hs : i.form.el ≠ .e3) :
    ExecutesFor i.form (flatNs el x) .nonSecure := by
  refine ⟨?_, h, ?_, fun _ => rfl⟩
  · cases i <;> rfl
  · cases i <;> first | rfl | exact absurd rfl hs

theorem witness_El1OperationsFlatMap :
    Instr.atS1E1A (.x 3) ∈ [Instr.atS1E1R (.x 3), .atS1E1W (.x 3), .atS1E0R (.x 3), .atS1E0W (.x 3), .atS1E1RP (.x 3),
      .atS1E1WP (.x 3), .atS1E1A (.x 3)] ∧
    ExecutesFor (Instr.atS1E1A (.x 3)).form (flatNs .el1 0xFFFFFFFFFFFF) .nonSecure ∧
    (flatNs .el1 0xFFFFFFFFFFFF).pendingRegs = [] ∧
    stage1Disabled launch (flatNs .el1 0xFFFFFFFFFFFF).regs .el10 .nonSecure = true ∧
    flatAddress (flatNs .el1 0xFFFFFFFFFFFF).regs .el10 (readXt (flatNs .el1 0xFFFFFFFFFFFF) (.x 3)) <
      2 ^ oaSize1 launch (flatNs .el1 0xFFFFFFFFFFFF).regs .el10 :=
  ⟨by decide, executes_flatNs _ _ _ (by decide) (by decide), by decide +kernel, by decide +kernel, by decide +kernel⟩

theorem witness_El2OperationsFlatMap :
    ExecutesFor (Instr.atS1E2W (.x 3)).form (flatNs .el2 0xFFFFFFFFFFFF) .nonSecure ∧
    (flatNs .el2 0xFFFFFFFFFFFF).pendingRegs = [] ∧ (flatNs .el2 0xFFFFFFFFFFFF).regs.sctlrEl2.m = false ∧
    el2Regime (flatNs .el2 0).regs .nonSecure = .el2 ∧
    flatAddress (flatNs .el2 0xFFFFFFFFFFFF).regs .el2 (readXt (flatNs .el2 0xFFFFFFFFFFFF) (.x 3)) <
      2 ^ oaSize1 launch (flatNs .el2 0xFFFFFFFFFFFF).regs .el2 :=
  ⟨executes_flatNs _ _ _ (by decide) (by decide), by decide +kernel, by decide +kernel, by decide +kernel,
    by decide +kernel⟩

theorem witness_El3OperationsFlatMap :
    featureImplemented (flat .el3 7).launch (Instr.atS1E3A (.x 3)).form.feature = true ∧ (flat .el3 7).el = .el3 ∧
    (flat .el3 7).pendingRegs = [] ∧ (flat .el3 7).regs.sctlrEl3.m = false ∧
    flatAddress (flat .el3 7).regs .el3 (readXt (flat .el3 7) (.x 3)) <
      2 ^ oaSize1 (flat .el3 7).launch (flat .el3 7).regs .el3 := by decide +kernel

theorem witness_S12OperationsFlatMap :
    ExecutesFor (Instr.atS12E0W (.x 3)).form (flatNs .el2 7) .nonSecure ∧ (flatNs .el2 7).pendingRegs = [] ∧
    stage1Disabled launch (flatNs .el2 7).regs .el10 .nonSecure = true ∧
    stage2Enabled launch (flatNs .el2 7).regs .el10 .nonSecure = false ∧
    flatAddress (flatNs .el2 7).regs .el10 (readXt (flatNs .el2 7) (.x 3)) <
      2 ^ oaSize1 launch (flatNs .el2 7).regs .el10 :=
  ⟨executes_flatNs _ _ _ (by decide) (by decide), by decide +kernel, by decide +kernel, by decide +kernel,
    by decide +kernel⟩

/-- A machine whose level 1 entries of the witnesses are that Block. -/
def blockState (el : EL) : State :=
  { p1 el 0x40203ABC with
    mem := storeBytes (mem8 .nonSecure [(0x100000008, 1)]) (memKey .root 0x80000008) (bytesOfDesc false 8 1)
    launch := { launch with descRows := [⟨.vmsav8, .s1, 1, .block leaf⟩, ⟨.vmsav8, .s2, 1, .block leaf⟩] } }

theorem witness_El3BlockWalkCompletes :
    (blockState .el3).launch.featAts1a = true ∧ (blockState .el3).el = .el3 ∧
    ((blockState .el3).pendingRegs = [] ∧ (blockState .el3).pendingWrites = [] ∧ (blockState .el3).tlb = []) ∧
    (blockState .el3).softAccesses = [] ∧ (blockState .el3).regs.sctlrEl3.m = true ∧
    (blockState .el3).regs.unnamed.sysEl3 = .vmsav8 ∧ (blockState .el3).regs.unnamed.tbiEl3 = false ∧
    (blockState .el3).regs.tcrEl3.tg0 = .g4K ∧ (blockState .el3).regs.tcrEl3.ds = false ∧
    (blockState .el3).regs.tcrEl3.t0sz = 25 ∧ readXt (blockState .el3) (.x 0) = 0x40203ABC ∧
    (readXt (blockState .el3) (.x 0)).toNat < 2 ^ (64 - (blockState .el3).regs.tcrEl3.t0sz.toNat) ∧
    (blockState .el3).regs.ttbr0El3.baddr.toNat % 2 ^ 48 <
      2 ^ oaSize1 (blockState .el3).launch (blockState .el3).regs .el3 ∧
    alignDown ((blockState .el3).regs.ttbr0El3.baddr.toNat % 2 ^ 48 % 2 ^ physBits (blockState .el3).launch) 12 +
      field (readXt (blockState .el3) (.x 0)).toNat 30 (12 - 3) * 8 = 0x80000008 ∧
    physExists (blockState .el3).launch .root 0x80000008 8 = true ∧
    decodeDesc (blockState .el3).launch (blockState .el3).regs
      (decodeCtx (stage1Cfg (blockState .el3).launch (blockState .el3).regs .el3 .root false) 1)
      (BitVec.ofNat 128 (valueOfBytes false
        (observedBytes (blockState .el3).mem [] 0 (memKey .root 0x80000008) 8))) = .block leaf := by decide +kernel

/-- The machine of P4 with HCR_EL2.DC 1. -/
def dcState : State :=
  { blockState .el2 with
    regs := { (p4 0).regs with hcrEl2 := ⟨false, true, false, false⟩ } }

theorem witness_S12UnderDcTranslatesAtStage2 :
    2 ≤ dcState.el.toNat ∧ dcState.launch.haveEl3 = true ∧ dcState.regs.scrEl3 = ⟨false, true⟩ ∧
    (dcState.pendingRegs = [] ∧ dcState.pendingWrites = [] ∧ dcState.tlb = []) ∧ dcState.softAccesses = [] ∧
    dcState.launch.checkPermsIdentity = true ∧ dcState.launch.featThe = false ∧
    el2Enabled dcState.launch dcState.regs .nonSecure = true ∧ dcState.regs.hcrEl2.dc = true ∧
    flatAddress dcState.regs .el10 (readXt dcState (.x 0)) = (readXt dcState (.x 0)).toNat ∧
    (readXt dcState (.x 0)).toNat < 2 ^ oaSize1 dcState.launch dcState.regs .el10 ∧
    dcState.regs.unnamed.sysStage2 = .vmsav8 ∧ dcState.regs.vtcrEl2.tg0 = .g4K ∧ dcState.regs.vtcrEl2.ds = false ∧
    dcState.regs.vtcrEl2.sl0 = 1 ∧ dcState.regs.vtcrEl2.t0sz = 24 ∧
    (readXt dcState (.x 0)).toNat < 2 ^ (64 - dcState.regs.vtcrEl2.t0sz.toNat) ∧
    dcState.regs.vttbrEl2.baddr.toNat % 2 ^ 48 < 2 ^ boundedOaSize dcState.launch .vmsav8 dcState.regs.unnamed.oaStage2 ∧
    alignDown (dcState.regs.vttbrEl2.baddr.toNat % 2 ^ 48 % 2 ^ physBits dcState.launch) 13 +
      field (readXt dcState (.x 0)).toNat 30 (13 - 3) * 8 = 0x100000008 ∧
    physExists dcState.launch .nonSecure 0x100000008 8 = true ∧
    decodeDesc dcState.launch dcState.regs
      (decodeCtx (stage2Cfg dcState.launch dcState.regs .nonSecure .nonSecure) 1)
      (BitVec.ofNat 128 (valueOfBytes false
        (observedBytes dcState.mem [] 0 (memKey .nonSecure 0x100000008) 8))) = .block leaf := by decide +kernel

/-- The result of a translation, the fault of one. -/
def okOf {α : Type} (x : Res α) : Option α :=
  match x with
  | .ok a => some a
  | _ => none

/-- The state has a result for the instruction. -/
theorem witness_SuccessIsReportedInPar :
    ExecutesFor (Instr.atS1E1R (.x 3)).form (flatNs .el1 0x5000) .nonSecure ∧
    equivalentForm launch (regsView (flatNs .el1 0x5000) .atInstr) .nonSecure (Instr.atS1E1R (.x 3)).form =
      ⟨.s1, .e1, .read false⟩ ∧
    (okOf (translateAddress (flatNs .el1 0x5000) (atRequest (regsView (flatNs .el1 0x5000) .atInstr) .nonSecure
      ⟨.s1, .e1, .read false⟩ (readXt (flatNs .el1 0x5000) (.x 3)))).2).isSome = true :=
  ⟨executes_flatNs _ _ _ (by decide) (by decide), by decide +kernel, by decide +kernel⟩

/-- Both reports of a fault: the same fault under two launches. -/
theorem witness_FaultIsReportedOrTaken :
    ExecutesFor (Instr.atS1E1R (.x 3)).form (flatNs .el1 (2 ^ 60)) .nonSecure ∧
    (translateAddress (flatNs .el1 (2 ^ 60)) (atRequest (regsView (flatNs .el1 (2 ^ 60)) .atInstr) .nonSecure
      ⟨.s1, .e1, .read false⟩ (readXt (flatNs .el1 (2 ^ 60)) (.x 3)))).2 = .mmu ⟨.addressSize, 0, .s1, .flatAddress⟩ ∧
    atReports launch ⟨.s1, .e1, .read false⟩ ⟨.addressSize, 0, .s1, .flatAddress⟩ = true ∧
    atReports { launch with atFaults := .exception } ⟨.s1, .e1, .read false⟩ ⟨.addressSize, 0, .s1, .flatAddress⟩ =
      false :=
  ⟨executes_flatNs _ _ _ (by decide) (by decide), by decide +kernel, by decide +kernel, by decide +kernel⟩

theorem witness_AtWritesOnlyPar :
    exec (.atS1E1R .zr) (flatNs .el1 0) = .next (nextOr (flatNs .el1 0) (exec (.atS1E1R .zr) (flatNs .el1 0))) := by
  rfl

/-- An S1 operation, an S12 operation with stage 2 enabled, and one without: each completes. -/
theorem witness_ParFormatFollowsTheSystem :
    ExecutesFor (Instr.atS1E1R .zr).form (flatNs .el2 0) .nonSecure ∧
    ExecutesFor (Instr.atS12E1R .zr).form (flatNs .el2 0) .nonSecure ∧
    fOf (exec (.atS1E1R .zr) (flatNs .el2 0)) = some false ∧
    stage2Enabled launch (regsView (flatNs .el2 0) .atInstr) .el10 .nonSecure = false ∧
    fOf (exec (.atS12E1R .zr) (flatNs .el2 0)) = some false ∧
    stage2Enabled (p4 0).launch (regsView (p4 0x40203ABC) .atInstr) .el10 .nonSecure = true ∧
    fOf (exec (.atS12E1R (.x 0)) (p4 0x40203ABC)) = some false :=
  ⟨executes_flatNs _ _ _ (by decide) (by decide), executes_flatNs _ _ _ (by decide) (by decide), by decide +kernel,
    by decide +kernel, by decide +kernel, by decide +kernel, by decide +kernel⟩

/-- A fault of a translation, and one an instruction takes as an exception. -/
theorem witness_NoAlignmentFault :
    faultOf (translateAddress (flatNs .el1 0) (atRequest SysRegs.atReset .nonSecure ⟨.s1, .e1, .read false⟩ (2 ^ 60))) =
      some (.addressSize, 0, .s1) ∧
    (match exec (.atS1E1R (.x 0)) { flatNs .el1 (2 ^ 60) with launch := { launch with atFaults := .exception } } with
     | .fault f => f == .mmuException ⟨.addressSize, 0, .s1, .flatAddress⟩
     | _ => false) = true := by decide +kernel

theorem witness_ResultSpaceBelongsToTheState :
    ExecutesFor (Instr.atS1E1R .zr).form (flatNs .el1 0) .nonSecure ∧ SecState.nonSecure ≠ .root ∧
    (nextOr (flatNs .el1 0) (exec (.atS1E1R .zr) (flatNs .el1 0))).par.body =
      .result 0 .nonSecure (.deviceNGnRnE (some true)) ∧
    (let s := { flatNs .el1 0 with launch := { launch with featRme := false } }
     s.launch.featRme = false ∧
       (nextOr s (exec (.atS1E1R .zr) s)).par.body = .result 0 .nonSecure (.deviceNGnRnE (some true))) :=
  ⟨executes_flatNs _ _ _ (by decide) (by decide), by decide, by decide +kernel, by decide +kernel⟩

/-- Another byte in Root space. -/
theorem witness_OtherSpacesDoNotMatter :
    ExecutesFor (Instr.atS1E1R .zr).form (flatNs .el1 0) .nonSecure ∧
    AgreeOn .nonSecure (flatNs .el1 0).mem (memWrite (flatNs .el1 0).mem (memKey .root 16) 7) ∧
    memWrite (flatNs .el1 0).mem (memKey .root 16) 7 ≠ (flatNs .el1 0).mem := by
  refine ⟨executes_flatNs _ _ _ (by decide) (by decide), ?_, by decide +kernel⟩
  intro sp pa hv hp
  have hs : sp = .nonSecure := hv
  subst hs
  rw [memRead_memWrite_ne]
  simp only [memKey, Space.toNat]
  omega

/-- An entry of a TLB. -/
def entry : TlbEntry :=
  { cfg := stage1Cfg launch (p1 .el1 0).regs .el10 .nonSecure false, lowBits := 30, iaHigh := 1
    pos := ⟨1, 0x80000008, .nonSecure, true, none, false⟩, desc := .block leaf, mro := false }

theorem witness_WalksEnd : ∀ t ∈ ({ p1NoEl2 .el1 0 with tlb := [entry] } : State).tlb, EntryOk launch t := by
  intro t ht
  simp only [List.mem_singleton] at ht
  subst ht
  exact ⟨by decide, by decide, 0x40203ABC, _, by decide +kernel, rfl, fun _ _ => rfl⟩

theorem witness_QuietTranslationIsDetermined :
    ((flatNs .el1 0).pendingRegs = [] ∧ (flatNs .el1 0).pendingWrites = [] ∧ (flatNs .el1 0).tlb = []) ∧
    NoFreePoint (flatNs .el1 0).launch := by
  refine ⟨by decide +kernel, ?_⟩
  exact ⟨by decide +kernel, by decide +kernel, by decide +kernel⟩

theorem witness_S12IsS1WithoutEl2 :
    2 ≤ (p1NoEl2 .el3 0).el.toNat ∧
    lowerState (p1NoEl2 .el3 0).launch (regsView (p1NoEl2 .el3 0) .atInstr) = some .nonSecure ∧
    el2Enabled (p1NoEl2 .el3 0).launch (regsView (p1NoEl2 .el3 0) .atInstr) .nonSecure = false := by decide +kernel

theorem witness_PanZeroAgrees :
    (flatNs .el1 0).pan = false ∧ (flatNs .el1 0).launch.featPan2 = true ∧
    (nextOr (flatNs .el1 0) (exec (.atS1E1RP .zr) (flatNs .el1 0))).par.f = false ∧
    (flatNs .el1 0).pendingWrites = [] ∧ launch.atFaults ≠ .parameter ∧
    exec (.atS1E1RP .zr) (flatNs .el1 0) = .next (nextOr (flatNs .el1 0) (exec (.atS1E1RP .zr) (flatNs .el1 0))) :=
  ⟨by decide +kernel, by decide +kernel, by decide +kernel, by decide +kernel, by decide +kernel, by rfl⟩

/-- A step that an event takes, from a state that has the invariant. -/
theorem witness_StepKeepsTheInvariant :
    Inv { State.reset with inputs := [.isb] } ∧
    step { State.reset with inputs := [.isb] } = .next (nextOr State.reset (step { State.reset with inputs := [.isb] })) := by
  refine ⟨⟨by decide +kernel, ?_, ?_, ?_, by decide +kernel, by decide +kernel⟩, by rfl⟩
  · intro c hc; exact absurd hc List.not_mem_nil
  · intro w hw; exact absurd hw List.not_mem_nil
  · intro t ht; exact absurd ht List.not_mem_nil

theorem witness_LaunchNeverChanges :
    step { State.reset with inputs := [.dsb] } = .next (nextOr State.reset (step { State.reset with inputs := [.dsb] })) := by
  rfl

theorem witness_DsbSettlesOwnWrites : Memory.wf (p1 .el1 0).mem = true := by decide +kernel

/-- The access of P2's store. -/
def storeAccess : ExplicitAccess :=
  { va := 0x80002020, size := 3, privileged := true, gcs := false, usePan := true, simd := false }

/-- The state after P2's store. -/
def stored : State := nextOr (flatNs .el1 0) (applyEvent (flatNs .el1 0) (.memWrite storeAccess 0x90006003))

theorem witness_StoreThenDsbIsObserved :
    Memory.wf (flatNs .el1 0).mem = true ∧ (flatNs .el1 0).pendingWrites = [] ∧ storeAccess.size = 3 ∧
    storeAccess.va.toNat % 8 = 0 ∧
    (∃ q, contextRequest (flatNs .el1 0) (regsView (flatNs .el1 0) .explicit)
        (dataAccess (flatNs .el1 0) storeAccess .write) storeAccess.va .explicit = some q ∧
      ∃ o, (translateAddress (flatNs .el1 0) q).2 = .ok o) ∧
    applyEvent (flatNs .el1 0) (.memWrite storeAccess 0x90006003) = .next stored ∧
    applyEvent stored .dsb = .next (nextOr stored (applyEvent stored .dsb)) :=
  ⟨by decide +kernel, by decide +kernel, by decide, by decide, ⟨_, by rfl, _, by rfl⟩, by rfl, by rfl⟩

/-- One write of eight bytes waits, of this PE or of another agent and then read by this PE. -/
def onePending (own readBack : Bool) : State :=
  { flatNs .el1 0 with
    pendingWrites :=
      [⟨cellsFrom (memKey .nonSecure 0x8000) [3, 0x60, 0, 0x90, 0, 0, 0, 0], false, own, false, readBack, false⟩] }

/-- A Reduced Coherence write of eight bytes that a DSB of this PE has settled. -/
def oneSettled : State :=
  { flatNs .el1 0 with
    pendingWrites :=
      [⟨cellsFrom (memKey .nonSecure 0x8000) [3, 0x60, 0, 0x90, 0, 0, 0, 0], true, true, false, false, true⟩] }

theorem witness_DescriptorReadIsOldOrNew :
    (∃ w, (onePending true false).pendingWrites = [w] ∧
      w.cells = cellsFrom (memKey .nonSecure 0x8000) [3, 0x60, 0, 0x90, 0, 0, 0, 0]) ∧
    physExists (onePending true false).launch .nonSecure 0x8000 8 = true := ⟨⟨_, rfl, rfl⟩, by decide +kernel⟩

/-- Each disjunct: a write of this PE, one of another agent that a load returned, and a Reduced Coherence write that
a DSB has settled. -/
theorem witness_OrderedReadSeesTheLastWrite :
    (∃ w, (onePending true false).pendingWrites = [] ++ [w] ∧ (w.own = true ∧ w.simd = false) ∧ w.reduced = false ∧
      w.cells = cellsFrom (memKey .nonSecure 0x8000) [3, 0x60, 0, 0x90, 0, 0, 0, 0]) ∧
    (∃ w, (onePending false true).pendingWrites = [] ++ [w] ∧ w.readBack = true ∧ w.reduced = false ∧
      w.cells = cellsFrom (memKey .nonSecure 0x8000) [3, 0x60, 0, 0x90, 0, 0, 0, 0]) ∧
    (∃ w, oneSettled.pendingWrites = [] ++ [w] ∧ w.settled = true ∧ w.reduced = true ∧
      w.cells = cellsFrom (memKey .nonSecure 0x8000) [3, 0x60, 0, 0x90, 0, 0, 0, 0]) ∧
    physExists (onePending true false).launch .nonSecure 0x8000 8 = true :=
  ⟨⟨_, rfl, ⟨rfl, rfl⟩, rfl, rfl⟩, ⟨_, rfl, rfl, rfl, rfl⟩, ⟨_, rfl, rfl, rfl, rfl⟩, by decide +kernel⟩

/-- A load of eight bytes of another agent's write marks it, one by a SIMD instruction does not (R100). -/
theorem test_load_marks_what_it_returned :
    (nextOr (onePending false false) (applyEvent (onePending false false)
      (.memRead { storeAccess with va := 0x8000 }))).pendingWrites.map PendingWrite.readBack = [true] ∧
    (nextOr (onePending false false) (applyEvent (onePending false false)
      (.memRead { storeAccess with va := 0x8000, simd := true }))).pendingWrites.map PendingWrite.readBack = [false] := by
  decide +kernel

/-- A misaligned access of two bytes. -/
def misaligned : ExplicitAccess := { storeAccess with va := 0x8001, size := 1 }

/-- A byte of it. -/
def misalignedPart (o : Nat) : AccessPart := ⟨o, memKey .nonSecure (0x8001 + o), 1, .deviceNGnRnE (some true)⟩

/-- A part whose translation reads no table: its place, or the fault its access judges it to be. -/
theorem accessPart_flat {s : State} {a : ExplicitAccess} {kind : AccessKind} {o n : Nat} {q : Request} {t : TransOk}
    (hq : contextRequest s (regsView s .explicit) (dataAccess s a kind) (a.va + BitVec.ofNat 64 o) .explicit = some q)
    (ha : ∀ force, attempt s (regsView s q.purpose) force q = ([], .ok t)) :
    accessPart s a kind o n =
      partPlace s ([], match a.judge s kind t with
        | none => .ok t
        | some f => .mmu f) o n := by
  have hj : ∀ force, judged (a.judge s kind) (attempt s (regsView s q.purpose) force q) =
      ([], match a.judge s kind t with
        | none => .ok t
        | some f => .mmu f) := by
    intro force
    rw [ha force]
    cases h : a.judge s kind t <;> simp [judged, Traced.bind, Traced.pure, h]
  obtain ⟨force, h⟩ := translateJudged_attempt s q (a.judge s kind)
  simp only [accessPart, hq, h, hj]

/-- The request of one of its bytes, and the state in which it is made. -/
def misalignedRequest (o : Nat) : Request :=
  ⟨.el1, .nonSecure, .el10, 0x8001 + BitVec.ofNat 64 o, ⟨.read, true, false, true, true⟩, false, .explicit, none⟩

def misalignedState (ps : List AccessPart) : State := (flatNs .el1 0).makeParts true .load ⟨[], ps⟩

/-- Whatever byte is made first, each translates to its flat-mapped address. -/
theorem misaligned_bytes : ∀ ps ∈ [[], [misalignedPart 0], [misalignedPart 1]], ∀ o ∈ [0, 1],
    contextRequest (misalignedState ps) (regsView (misalignedState ps) .explicit)
      (dataAccess (misalignedState ps) misaligned .read) (misaligned.va + BitVec.ofNat 64 o) .explicit =
        some (misalignedRequest o) ∧
    (∀ force, attempt (misalignedState ps) (regsView (misalignedState ps) .explicit) force (misalignedRequest o) =
      ([], .ok ⟨0x8001 + o, .nonSecure, true, .deviceNGnRnE (some true), none, none, 0, 0⟩)) ∧
    partPlace (misalignedState ps)
      ([], .ok ⟨0x8001 + o, .nonSecure, true, .deviceNGnRnE (some true), none, none, 0, 0⟩) o 1 =
        ([], .ok (misalignedPart o)) ∧
    (misalignedState ps).draws = 0 := by decide +kernel

/-- A misaligned access is an Alignment fault or is made byte by byte, in either order: it completes each time
(R421, U10). -/
theorem test_misaligned_load_completes : ∃ t, applyEvent (flatNs .el1 0) (.memRead misaligned) = .next t := by
  have key : ∀ ps ∈ [[], [misalignedPart 0], [misalignedPart 1]], ∀ o ∈ [0, 1],
      accessPart (misalignedState ps) misaligned .read o 1 =
        if Config.alignmentFault 0 (.deviceNGnRnE (some true)) 0x8001 2 .read then ([], .mmu alignmentFault)
        else ([], .ok (misalignedPart o)) := by
    intro ps hps o ho
    obtain ⟨hq, ha, hp, hd⟩ := misaligned_bytes ps hps o ho
    have hj : misaligned.judge (misalignedState ps) .read
        ⟨0x8001 + o, .nonSecure, true, .deviceNGnRnE (some true), none, none, 0, 0⟩ =
        if Config.alignmentFault 0 (.deviceNGnRnE (some true)) 0x8001 2 .read then some alignmentFault else none := by
      rw [ExplicitAccess.judge, hd]; rfl
    rw [accessPart_flat hq ha, hj]
    cases Config.alignmentFault 0 (.deviceNGnRnE (some true)) 0x8001 2 .read
    · exact hp
    · rfl
  have order : ∀ n, reorder [(0, 1), (1, 1)] n = [(0, 1), (1, 1)] ∨ reorder [(0, 1), (1, 1)] n = [(1, 1), (0, 1)] := by
    intro n
    rcases Nat.mod_two_eq_zero_or_one n with h | h <;> simp [reorder, putAt, h, Nat.mod_one]
  show ∃ t, doRead (flatNs .el1 0) misaligned = .next t
  unfold doRead doAccess
  rw [show accessPieces (flatNs .el1 0) misaligned = reorder [(0, 1), (1, 1)] (Config.choose 0 .byteOrder) from rfl]
  have hs : ∀ ps, (flatNs .el1 0).makeParts true .load ⟨[], ps⟩ = misalignedState ps := fun _ => rfl
  generalize flatNs .el1 0 = S at hs ⊢
  generalize Config.alignmentFault 0 (.deviceNGnRnE (some true)) 0x8001 2 .read = fault at key
  rcases order (Config.choose 0 .byteOrder) with h | h <;> rw [h] <;>
    cases fault <;> simp [accessLoop, AccessData.kind, hs, key]

/-- While an access is made, what its bytes wrote waits, and no fault of a later byte is ordered after it (R95, R100);
the bytes it read make up its value. -/
theorem test_parts_of_one_access :
    (((flatNs .el1 0).makeParts true (.store [1, 2, 3, 4]) ⟨[], [⟨3, 100, 1, tableMem⟩]⟩).pendingWrites.map fun w =>
      (w.cells, w.etsOrdered)) = [([(100, 4)], false)] ∧
    (((flatNs .el1 0).makeParts false (.store [1, 2, 3, 4]) ⟨[], [⟨3, 100, 1, tableMem⟩]⟩).pendingWrites.map fun w =>
      (w.cells, w.etsOrdered)) = [([(100, 4)], true)] ∧
    loadedValue { flatNs .el1 0 with mem := [(8, 0x11), (9, 0x22)] } [⟨1, 9, 1, tableMem⟩, ⟨0, 8, 1, tableMem⟩] =
      0x2211 := by decide +kernel

/-- Two Reduced Coherence writes to a location, then a DSB: the older can no longer be observed (R115). -/
theorem test_dsb_keeps_the_last_reduced_write :
    (({ flatNs .el1 0 with pendingWrites :=
      [⟨[(8, 1)], false, true, false, false, false⟩, ⟨[(8, 2)], true, true, false, false, false⟩,
        ⟨[(8, 3)], true, true, false, false, false⟩] } : State).settle PendingWrite.own).pendingWrites =
      [⟨[(8, 3)], true, true, false, false, true⟩] ∧
    (({ flatNs .el1 0 with pendingWrites :=
      [⟨[(8, 1)], false, true, false, false, false⟩, ⟨[(8, 2)], true, true, false, false, false⟩,
        ⟨[(8, 3)], true, true, false, false, false⟩] } : State).settle PendingWrite.own).mem = [(8, 1)] := by
  decide +kernel

/-- A data read at EL1 of an address above the OA size, one that its access judges to be misaligned, and an AT
instruction that takes the first fault. -/
theorem witness_Ets3FaultsSeeEarlierWrites :
    (flatNs .el1 0).launch.featEts3 = true ∧
    faultOf (translateAddress (flatNs .el1 0)
      { el := .el1, ss := .nonSecure, regime := .el10, va := 2 ^ 60, acc := atAccess ⟨.s1, .e1, .read false⟩,
        stage1Only := false, purpose := .explicit, form := none }) = some (.addressSize, 0, .s1) ∧
    faultOf (translateJudged (flatNs .el1 0) (misalignedRequest 0) fun _ => some alignmentFault) =
      some (.alignment, 0, .s1) ∧
    ExecutesFor (Instr.atS1E1R (.x 0)).form { flatNs .el1 (2 ^ 60) with launch := { launch with atFaults := .exception } }
      .nonSecure ∧
    (match exec (.atS1E1R (.x 0)) { flatNs .el1 (2 ^ 60) with launch := { launch with atFaults := .exception } } with
     | .fault f => f == .mmuException ⟨.addressSize, 0, .s1, .flatAddress⟩
     | _ => false) = true :=
  ⟨by decide +kernel, by decide +kernel, by decide +kernel, ⟨rfl, by decide, rfl, fun _ => rfl⟩, by decide +kernel⟩

/-- FEAT_THE with Protection enabled for EL1&0 or not, and the masks of V5. -/
def theState (prot : Bool) (old : Nat) : State :=
  { flatNs .el1 0 with
    launch := { launch with featThe := true }
    mem := mem8 .nonSecure [(0x8000, old)]
    regs := { SysRegs.atReset with
      scrEl3 := ⟨false, true⟩, tcr2El1 := ⟨prot, true⟩, rcwmaskEl1 := 0x400, rcwsmaskEl1 := 0x0780000000000000 } }

/-- The outcome of an RCW or RCWS event on the descriptor at 0x8000. -/
def rcwAt (s : State) (sw : Bool) (new : Raw) : State :=
  nextOr s (applyEvent s (.rcw sw false .nonSecure 0x1000 new tableMem))

/-- Both disjuncts: an RCW update of a Protected descriptor, and an RCWS one without Protection. -/
theorem witness_FailedChecksKeepTheDescriptor :
    (theState true 0).launch.featThe = true ∧
    stateAt (theState true 0).launch (regsView (theState true 0) .explicit) .el1 = some .nonSecure ∧
    physExists (theState true 0).launch .nonSecure (0x1000 * rcwBytes false) (rcwBytes false) = true ∧
    protectionEnabled (theState true 0).launch (theState true 0).regs .el10 = true ∧
    tableMismatch (theState true 0).tableReads (memKey .nonSecure 0x8000) 8 tableMem = false ∧
    (rcwAt (theState true 0x10000090005003) false 0x10000090005083).output = .rcwUpdated false ∧
    rcwChecksFail (rcwCheckOf (theState true 0).launch (theState true 0).regs .el10 false 0x10000090005003
      0x10000090005083) = true ∧
    rcwsChecksFail (rcwCheckOf (theState false 0).launch (theState false 0).regs .el10 false 0 0x90005003) = true := by
  decide +kernel

theorem witness_RcwsNeverChangesValidity :
    stateAt (theState true 0).launch (regsView (theState true 0x90005003) .explicit) .el1 = some .nonSecure ∧
    (rcwAt (theState true 0x90005003) true 0x80000090005003).output = .rcwUpdated true := by decide +kernel

theorem witness_RcwWithoutProtectionWritesAll :
    (theState false 0).launch.featThe = true ∧
    stateAt (theState false 0).launch (regsView (theState false 0) .explicit) .el1 = some .nonSecure ∧
    protectionEnabled (theState false 0).launch (regsView (theState false 0) .explicit) .el10 = false ∧
    physExists (theState false 0).launch .nonSecure (0x1000 * rcwBytes false) (rcwBytes false) = true ∧
    tableMismatch [⟨memKey .nonSecure 0x8000, 8, .zero⟩] (memKey .nonSecure 0x8000) 8 tableMem = false := by
  decide +kernel

/-- An RCWS update with PTTWI 0, and one with PTTWI 1. -/
theorem witness_ReducedCoherenceNeedsRcwsAndPttwi :
    (theState true 0x90005003).tlb = [] ∧
    (rcwAt (theState true 0x90005003) true 0x80000090005003).output = .rcwUpdated true ∧
    pttwiOf (theState true 0).launch (theState true 0).regs .el10 .nonSecure = false ∧
    pttwiOf (theState true 0).launch { (theState true 0).regs with hcrxPttwi := true } .el10 .nonSecure = true := by
  decide +kernel

/-- The environment of a walk of P1 that finds an Invalid entry. -/
def emptyEnv : WalkEnv := ⟨{ p1NoEl2 .el1 0 with mem := [] }, (p1NoEl2 .el1 0).regs, false, .atInstr, 4⟩

/-- The controls and the first position of that walk. -/
def p1Cfg : WalkCfg := stage1Cfg launch (p1NoEl2 .el1 0).regs .el10 .nonSecure false

def p1Pos : WalkPos := ⟨1, 0x80000008, .nonSecure, true, none, false⟩

theorem witness_InvalidDescriptorFaultsAtItsLevel :
    (placeOf p1Pos).2 = .ok ⟨0x80000008, .nonSecure, false⟩ ∧
    lookup emptyEnv p1Cfg p1Pos ⟨0x80000008, .nonSecure, false⟩ 0x40203ABC = .ok .invalid := by decide +kernel

/-- P1's walk controls, with another base register and OA size. -/
def baseCfg (baddr : PAddr) (oaSize : Nat) : WalkCfg := { p1Cfg with baddr := baddr, oaSize := oaSize }

/-- A base above the OA size and the highest below it, at stage 1, and one above it at stage 2. -/
theorem witness_LargeBaseAddressFaultsAtLevelZero :
    (baseCfg 0x10000000000 40).system = .vmsav8 ∧ (baseCfg 0x10000000000 40).stage = .s1 ∧
    v8Start (baseCfg 0x10000000000 40) = some 1 ∧ v8Start (baseCfg 0xFFFFFFF000 40) = some 1 ∧
    v8BaseTooLarge (v8InitialBase (baseCfg 0x10000000000 40) 1) 40 false = true ∧
    v8BaseTooLarge (v8InitialBase (baseCfg 0xFFFFFFF000 40) 1) 40 false = false ∧
    (let c := { stage2Cfg launch (p4 0).regs .nonSecure .nonSecure with baddr := 0x10000000000, oaSize := 40 }
     c.system = .vmsav8 ∧ c.stage = .s2 ∧ v8Start c ≠ none ∧ 0 < 2 ^ (64 - c.sz) ∧ c.oaSize < v8MaxOa c.opt52 ∧
       v8BaseTooLarge (v8BaseAddr c.baddr c.opt52) c.oaSize c.opt52 = true) := by decide +kernel

/-- R27, R174: register bits below the alignment of the table (here 2^12 bytes) are no part of the base address: such a
bit at the OA size gives no fault, the one above it gives it. -/
theorem test_misaligned_base_gives_no_fault :
    (match startWalk (p1NoEl2 .el1 0) (baseCfg 0x800 11) false 0 with
     | .ok (.go p) => p.da == 0
     | _ => false) = true ∧
    (match startWalk (p1NoEl2 .el1 0) (baseCfg 0x1000 11) false 0 with
     | .mmu f => f.kind == .addressSize
     | _ => false) = true := by decide +kernel

/-- The walk controls of P4's stage 2 with these. -/
def s2walk (sl0 sz : Nat) : WalkCfg :=
  { stage2Cfg launch (p4 0).regs .nonSecure .nonSecure with sl0 := sl0, sz := sz }

/-- A start that is bad in each granule, and one that is good: at the edges of the rows of T0SZ, and of SL0. -/
theorem witness_BadStage2StartFaults :
    ((s2walk 3 48).sl0 ≤ 3 ∧ Stage2StartBad (s2walk 3 49) ∧ ¬Stage2StartBad (s2walk 3 48) ∧
      Stage2StartBad (s2walk 1 20) ∧ Stage2StartBad (s2walk 1 34)) ∧
    (∃ r p, r ∈ stage2Rows (s2walk 1 21) ∧ r.holds 21 ∧ startWalk (p4 0) (s2walk 1 21) false 0x40203ABC = .ok (.go p)) ∧
    (stage2Cfg launch (p4 0).regs .nonSecure .nonSecure).system = .vmsav8 ∧
    (stage2Cfg launch (p4 0).regs .nonSecure .nonSecure).stage = .s2 ∧
    s2c .g4K false false 1 20 false false = none ∧ s2c .g16K false false 1 23 true false = none ∧
    s2c .g64K false false 3 24 true true = none ∧ s2c .g4K false false 1 24 false false = some 1 :=
  ⟨by unfold Stage2StartBad StartRow.holds; decide +kernel,
    ⟨⟨true, 21, 33, 1⟩, _, by decide +kernel, ⟨rfl, by decide, by decide⟩, rfl⟩, by decide +kernel⟩

/-- A VA between the ranges, T0SZ = T1SZ = 16. -/
theorem witness_VaOutsideBothRangesFaults :
    (let r := { (p1NoEl2 .el1 0).regs with tcrEl1 := { Tcr.zero with t0sz := 16, t1sz := 16 } }
     stage1Disabled launch r .el10 .nonSecure = false ∧
     topByteIgnore r .el10 (upperRange .el10 0x1000000000000) = false ∧
     2 ^ (64 - (tcrOf r .el10).t0sz.toNat) ≤ (0x1000000000000 : Word).toNat ∧
     (0xFFFEFFFFFFFFFFFF : Word).toNat < 2 ^ 64 - 2 ^ (64 - (tcrOf r .el10).t1sz.toNat)) := by decide +kernel

theorem witness_EpdMissFaults :
    (let r := { (p1NoEl2 .el1 0).regs with tcrEl1 := { Tcr.zero with epd0 := true, epd1 := true } }
     ({ p1NoEl2 .el1 0 with tlb := [entry] } : State).tlb.map (fun t =>
       t.answers (stage1Cfg launch r .el10 .nonSecure false) 0x80203ABC) = [false] ∧
     stage1Disabled launch r .el10 .nonSecure = false ∧
     (tcrOf r .el10).epd ((0x80203ABC : Word).getLsbD 55) = true ∧
     (tcrOf r .el10).epd ((0xFFFF000000000000 : Word).getLsbD 55) = true) := by decide +kernel

theorem witness_E0pdFaults :
    (let r := { (p1NoEl2 .el0 0).regs with tcrEl1 := { Tcr.zero with e0pd1 := true } }
     (p1NoEl2 .el0 0).launch.featE0pd = true ∧ stage1Disabled launch r .el10 .nonSecure = false ∧
     (tcrOf r .el10).e0pd ((0xFFFF000000001000 : Word).getLsbD 55) = true) := by decide +kernel

theorem witness_Bit55SelectsTheTtbr :
    (0xFF7FFFFFFFFFFFFF : Word).getLsbD 55 = false ∧ (0x80000000000000 : Word).getLsbD 55 = true := by decide

/-- The Table descriptor of P1's level 1 entry; the same under VMSAv9-128, skipping one level. -/
def tableDesc : TableDesc := ⟨0x80001000, 1, true, 0, false⟩

/-- Each clause: a Table descriptor of each system that leads on. -/
theorem witness_TableDescriptorsLeadToLaterLevels :
    (match descStep p1Cfg p1Pos (.table tableDesc) false 0x40203ABC with
     | .ok (.go p) => p.level == 2
     | _ => false) = true ∧
    (match descStep { p1Cfg with system := .vmsav9 } p1Pos (.table tableDesc) false 0x40203ABC with
     | .ok (.go p) => p.level == 3
     | _ => false) = true := by decide +kernel

/-- V8.4: a Secure walk through an NSTable 1 descriptor, and on from Non-secure space. -/
theorem witness_NsTableLatches :
    (let c := stage1Cfg launch (p1NoEl2 .el1 0).regs .el10 .secure false
     c.ss = .secure ∧ c.stage = .s1 ∧
     (match startWalk (p1NoEl2 .el1 0) c false 0x40203ABC with
      | .ok (.go p) => p.space == .secure
      | _ => false) = true ∧
     (match descStep c { p1Pos with space := .secure } (.table tableDesc) false 0x40203ABC with
      | .ok (.go p) => p.space == .nonSecure
      | _ => false) = true ∧
     (match descStep c p1Pos (.table { tableDesc with nsTable := false }) false 0x40203ABC with
      | .ok (.go p) => p.space == .nonSecure
      | _ => false) = true) := by decide +kernel

/-- The edges of the rows, with and without what they ask. -/
theorem witness_Vmsav8StartLevelFormula :
    [(12, true, false), (11, true, false), (12, false, false), (42, false, true), (43, false, true), (48, false, true),
      (49, false, true)].map (fun x => v8S1Start { p1Cfg with sz := x.1, ds := x.2.1, ttst := x.2.2 }) =
      [some (-1), none, none, some 2, some 3, some 3, none] := by
  decide +kernel

theorem witness_Vmsav9StartLevelFormula :
    [v9RegularStart .g4K 8 false, v9RegularStart .g4K 8 true, v9RegularStart .g4K 9 true, v9RegularStart .g64K 47 true,
      v9RegularStart .g64K 48 true, v9RegularStart .g16K 48 false, v9RegularStart .g16K 49 false] =
      [some (-2), none, some (-2), some 3, none, some 3, none] := by decide

theorem witness_TableTooLargeMeansPastLevelThree :
    v9TableTooLarge .g64K (-2) 3 = false ∧ v9TableTooLarge .g4K 3 0 = true := by decide

theorem witness_ConcatenatedTablesAreAlignedWhole :
    s2c .g4K true false 2 12 false false = some 0 ∧ v8S2Concat .g4K 0 12 = 16 ∧ v8S2Concat .g4K 1 25 = 1 := by
  decide +kernel

theorem witness_DisabledStagesGiveOnlyAddressSizeFaults :
    stage1Disabled launch (flatNs .el1 0).regs .el10 .nonSecure = true ∧
    stage2Enabled launch (flatNs .el1 0).regs .el10 .nonSecure = false ∧
    faultOf (attempt (flatNs .el1 0) (flatNs .el1 0).regs false
      (atRequest (flatNs .el1 0).regs .nonSecure ⟨.s1, .e1, .read false⟩ (2 ^ 48))) =
      some (.addressSize, 0, .s1) := by decide +kernel

theorem witness_DcDisablesStage1AndEnablesStage2 :
    el2Enabled dcState.launch dcState.regs .nonSecure = true ∧ dcState.regs.hcrEl2.dc = true := by decide +kernel

/-- Stage 2 of the Block state with FEAT_THE, its Block AssuredOnly or not. -/
def theEnv (assuredOnly : Bool) : WalkEnv :=
  { s := { dcState with
      launch := { dcState.launch with
        featThe := true
        descRows := [⟨.vmsav8, .s2, 1, .block { leaf with assuredOnly := assuredOnly }⟩] } }
    regs := { dcState.regs with
      vtcrEl2 := { dcState.regs.vtcrEl2 with assuredOnly := true, gcsh := true } }
    force := false, purpose := .atInstr, ctx := 4 }

/-- The result of that stage 2. -/
def theOk (assuredOnly : Bool) : Option StageOk :=
  okOf (runStage (theEnv assuredOnly)
    (stage2Cfg (theEnv assuredOnly).s.launch (theEnv assuredOnly).regs .nonSecure .nonSecure) placeOf 0x40203ABC
    false false).2

/-- A privileged Guarded control stack read at EL1. -/
def theRequest : Request :=
  { el := .el1, ss := .nonSecure, regime := .el10, va := 0x40203ABC, acc := ⟨.read, true, true, false, true⟩
    stage1Only := false, purpose := .explicit, form := none }

/-- The AssuredOnly check, and the Guarded control stack check. -/
theorem witness_AssuredOnlyAndGcsChecksFault :
    (theOk true).map (fun d => assuredOnlyAttr (theEnv true).s.launch (theEnv true).regs d.assuredOnly) = some true ∧
    (theOk false).map (fun d => assuredOnlyAttr (theEnv false).s.launch (theEnv false).regs d.assuredOnly) =
      some false ∧
    S2Use.assured (.final false true) = false ∧ (theEnv false).regs.vtcrEl2.gcsh = true ∧
    stage1Disabled (theEnv true).s.launch (theEnv true).regs .el10 .nonSecure = true ∧
    (okOf (firstStage (theEnv true).s (theEnv true).regs false theRequest).2).map StageOk.oa = some 0x40203ABC ∧
    (okOf (firstStage (theEnv true).s (theEnv true).regs false theRequest).2).map StageOk.space = some .nonSecure ∧
    theRequest.el = .el1 ∧ theRequest.acc.gcs = true ∧
    faultOf (attempt (theEnv true).s (theEnv true).regs false theRequest) = some (.permission, 1, .s2) ∧
    faultOf (attempt (theEnv false).s (theEnv false).regs false theRequest) = some (.permission, 1, .s2) := by
  decide +kernel

/-- The TopLevel checks: stage 2 of the first lookup completes, and both a Yes and a No row arise. -/
theorem witness_TopLevelChecksFault :
    (theOk false).isSome = true ∧ (theEnv false).s.launch.featThe = true ∧
    topLevelFault0 true false false false = true ∧ topLevelFault0 false false false false = false ∧
    topLevelFault1 true false true false = true ∧ topLevelFault1 true false false false = false := by decide +kernel

/-- P4 with FEAT_THE, Protection enabled, TL0 1, and MRO for the IPA of the tables. -/
def assuredState : State :=
  let s := p4 0x40203ABC
  { s with
    launch := { s.launch with
      featThe := true
      descRows := [⟨.vmsav8, .s2, 0xC0000001, .block { leaf with oab := 0xC0000000, mro := true, topLevel0 := true }⟩] }
    regs := { s.regs with tcr2El1 := ⟨true, false⟩, vtcrEl2 := { s.regs.vtcrEl2 with tl0 := true } } }

/-- Its stage 1 controls, and the environment of its lookups. -/
def assuredCfg : WalkCfg := stage1Cfg assuredState.launch assuredState.regs .el10 .nonSecure false

def assuredEnv : WalkEnv := ⟨assuredState, assuredState.regs, false, .atInstr, 4⟩

/-- Each clause: a Block walk with the property; a Table descriptor that hands it on; one that decodes as
Protected; a place with MRO; and a start with the property, and one from TTBR1_EL1 without. -/
theorem witness_AssuredTranslationIsNeverRegained :
    (match descStep assuredCfg { p1Pos with assured := true } (.table { tableDesc with prot := true }) true 0x40203ABC with
     | .ok (.go p) => p.assured
     | _ => false) = true ∧
    (match decodeDesc assuredState.launch assuredState.regs (decodeCtx assuredCfg 1) 0x10000080001003 with
     | .table t => t.prot && t.next == 0x80001000
     | _ => false) = true ∧
    (stage1Place assuredEnv assuredCfg p1Pos).2 = .ok ⟨0xC0000008, .nonSecure, true⟩ ∧
    (match startWalk assuredState assuredCfg (assuredAtStart assuredState.launch assuredState.regs .el10 .nonSecure false)
        0x40203ABC with
     | .ok (.go p) => p.assured
     | _ => false) = true ∧
    assuredAtStart assuredState.launch assuredState.regs .el10 .nonSecure true = false ∧
    (match (walkLoop (theEnv true) (stage2Cfg (theEnv true).s.launch (theEnv true).regs .nonSecure .nonSecure) placeOf
        0x40203ABC 6 ⟨1, 0x100000008, .nonSecure, true, none, true⟩).2 with
     | .ok r => r.assured
     | _ => false) = true := by decide +kernel

end Sys2Proof.Tests
end

/-! SUPPORT. No step changes a launch parameter (spec/00_scope.md R7): what the events without a law so far can leave,
the launch parameters after every event and after every instruction, and the statement O27. -/

namespace Sys2Proof.Machine

/-! ### What the remaining events can leave -/

/-- Another agent's write adds one pending write, of its bytes at a place that exists (R545). -/
theorem doOtherWrite_next {s t : State} {sp : Space} {pa : PAddr} {bytes : List Byte} {reduced : Bool}
    (h : doOtherWrite s sp pa bytes reduced = .next t) :
    physExists s.launch sp pa.toNat bytes.length = true ∧
    ∃ w, w.cells = cellsFrom (memKey sp pa.toNat) bytes ∧ t = (s.addWrite w).answer .none := by
  unfold doOtherWrite at h
  split at h
  next hx => exact ⟨hx, _, rfl, (next_inj h).symm⟩
  next => cases h

/-- An RCW or RCWS update reads a descriptor at a place that exists; it answers whether it then replaces it, which
adds one pending write of that descriptor's bytes (R226). -/
theorem doRcw_next {s t : State} {sw wide : Bool} {sp : Space} {slot : Nat} {new : Raw} {attrs : Attrs}
    (h : doRcw s sw wide sp slot new attrs = .next t) :
    let n := rcwBytes wide
    let k := memKey sp (slot * n)
    physExists s.launch sp (slot * n) n = true ∧
    (t = ((s.noteRead k n false).noteSoft k n attrs false).answer (.rcwUpdated false) ∨
      ∃ w ee v, w.cells = cellsFrom k (bytesOfDesc ee n v) ∧
        t = (((s.noteRead k n false).noteSoft k n attrs true).addWrite w).answer (.rcwUpdated true)) := by
  unfold doRcw at h
  split at h
  next => cases h
  next =>
    dsimp only at h
    split at h
    next => cases h
    next =>
      split at h
      next => cases h
      next hx =>
        refine ⟨by simpa using hx, ?_⟩
        split at h
        next => cases h
        next =>
          split at h
          next => exact .inr ⟨_, _, _, rfl, (next_inj h).symm⟩
          next => exact .inl (next_inj h).symm

/-- A TLB fill records what a walk read and puts entries of that walk in front of the TLB (R70, D10). -/
theorem doFill_next {s t : State} {acc : Access} {g : Regime} {va : Word} {keep : Nat}
    (h : doFill s acc g va keep = .next t) :
    ∃ q, t = { s.noteWalk (translateAddress s q).1 with
        tlb := keepBits (tlbEntries (translateAddress s q).1) keep ++ s.tlb }.answer .none := by
  unfold doFill at h
  dsimp only at h
  split at h
  next => cases h
  next =>
    split at h
    next => exact ⟨_, (next_inj h).symm⟩
    next => exact ⟨_, (next_inj h).symm⟩
    next => cases h
    next => cases h

/-- A speculative fetch changes the output and the record of what walks read (R433). -/
theorem doSpeculativeFetch_next {s t : State} {va : Word} (h : doSpeculativeFetch s va = .next t) :
    ∃ notes o, t = (s.noteWalk notes).answer o := by
  unfold doSpeculativeFetch at h
  split at h
  next => cases h
  next =>
    split at h
    next => cases h
    next => exact ⟨_, answerTranslation_next h⟩

/-- A context change sets the Exception level, to one the PE has, and PSTATE.PAN (R24). -/
theorem doContext_next {s t : State} {el : EL} {pan : Bool} (h : doContext s el pan = .next t) :
    levelExists s.launch el = true ∧ t = { s with el := el, pan := pan }.answer .none := by
  unfold doContext at h
  split at h
  next hl => exact ⟨hl, (next_inj h).symm⟩
  next => cases h

/-! ### The launch parameters -/

@[simp] theorem afterAt_launch (s : State) (p : Par) : (afterAt s p).launch = s.launch := rfl

@[simp] theorem State.makeParts_launch (s : State) (simd : Bool) (data : AccessData) (m : Progress) :
    (s.makeParts simd data m).launch = s.launch := by
  rw [(makeParts_frame s simd data m).2]

/-- An explicit access that completes keeps the launch parameters. -/
theorem doAccess_launch {s t : State} {a : ExplicitAccess} {data : AccessData} {answer : List AccessPart → Output}
    (h : doAccess s a data answer = .next t) : t.launch = s.launch := by
  obtain ⟨m, o, rfl, -⟩ := doAccess_next h
  simp

/-- A request to translate keeps the launch parameters. -/
theorem doTranslate_launch {s t : State} {acc : Access} {va : Word} {p : Purpose}
    (h : doTranslate s acc va p = .next t) : t.launch = s.launch := by
  obtain ⟨notes, o, rfl⟩ := doTranslate_next h
  simp

/-- An RCW or RCWS update keeps the launch parameters, whether it replaces the descriptor or not. -/
theorem doRcw_launch {s t : State} {sw wide : Bool} {sp : Space} {slot : Nat} {new : Raw} {attrs : Attrs}
    (h : doRcw s sw wide sp slot new attrs = .next t) : t.launch = s.launch := by
  obtain ⟨-, rfl | ⟨w, ee, v, -, rfl⟩⟩ := doRcw_next h
  · simp
  · simp

/-- No event of the environment changes a launch parameter. -/
theorem applyEvent_launch {s t : State} {ev : Event} (h : applyEvent s ev = .next t) : t.launch = s.launch := by
  cases ev with
  | translate acc va => exact doTranslate_launch h
  | cacheMaintenance va => exact doTranslate_launch h
  | memRead a =>
    unfold applyEvent doRead at h
    exact doAccess_launch h
  | memWrite a v =>
    unfold applyEvent doWrite at h
    exact doAccess_launch h
  | rcw sw wide sp slot new attrs => exact doRcw_launch h
  | otherWrite sp pa bytes reduced =>
    obtain ⟨-, w, -, rfl⟩ := doOtherWrite_next h
    simp
  | tlbFill acc g va keep =>
    obtain ⟨q, rfl⟩ := doFill_next h
    simp
  | speculativeFetch va =>
    obtain ⟨notes, o, rfl⟩ := doSpeculativeFetch_next h
    simp
  | context el pan =>
    obtain ⟨-, rfl⟩ := doContext_next h
    simp
  | otherDsb => simp [← next_inj h]
  | dsb => simp [← next_inj h]
  | isb => simp [← next_inj h]
  | directWrite w => simp [← next_inj h]
  | readPar => simp [← next_inj h]
  | tlbEvict n => simp [← next_inj h]
  | directBranch target => simp [← next_inj h]
  | icacheSync va => simp [← next_inj h]
  | writeX r v => simp [← next_inj h]

/-- No AT instruction changes a launch parameter. -/
theorem exec_launch {i : Instr} {s t : State} (h : exec i s = .next t) : t.launch = s.launch := by
  obtain ⟨notes, p, rfl⟩ := exec_next h
  simp

/-- A step that fetches an instruction keeps the launch parameters: the fetch only makes records. -/
theorem stepInstr_launch {s t : State} (h : stepInstr s = .next t) : t.launch = s.launch := by
  obtain ⟨i, hi⟩ := stepInstr_next h
  simpa using exec_launch hi

/-- Settles O27: a step applies the next event or runs an instruction, and neither touches the launch
parameters. -/
theorem launchNeverChanges : Obligations.LaunchNeverChanges := by
  intro s t h
  cases hin : s.inputs with
  | nil =>
    rw [step_of_no_inputs hin] at h
    exact stepInstr_launch h
  | cons ev rest =>
    rw [step_of_event hin] at h
    simpa using applyEvent_launch h

end Sys2Proof.Machine

/-! SUPPORT. The start of a VMSAv8-64 walk and the check of its base address (spec/40_walk_generic.md R163, R174, R183),
and the statement O42. -/

namespace Sys2Proof.Machine

/-! ### The start of a VMSAv8-64 walk (R163, R183) -/

/-- Where there is an initial level and the input address is in range, a VMSAv8-64 walk starts there. -/
theorem startWalk_eq_v8Begin {s : State} {c : WalkCfg} {assured : Bool} {ia : Nat} {level : Int}
    (hs : c.system = .vmsav8) (hl : v8Start c = some level) (hia : c.stage = .s2 → ia < 2 ^ (64 - c.sz)) :
    startWalk s c assured ia = v8Begin c assured level ia := by
  unfold v8Start at hl
  cases hst : c.stage with
  | s1 =>
    rw [hst] at hl
    simp [startWalk, hs, hst, hl]
  | s2 =>
    rw [hst] at hl
    have hfits : s2InputTooLarge c ia = false := by simpa [s2InputTooLarge, hst] using hia hst
    simp [startWalk, hs, hst, hl, hfits]

/-- A base address above the OA size gives an Address size fault of level 0, whatever the initial level (R183). -/
theorem v8Begin_of_base_tooLarge {c : WalkCfg} {assured : Bool} {level : Int} {ia : Nat}
    (h : v8BaseTooLarge (v8InitialBase c level) c.oaSize c.opt52 = true) :
    v8Begin c assured level ia = .mmu ⟨.addressSize, 0, c.stage, .baseAddress⟩ := if_pos h

/-- Any other base address gives the first lookup, at the initial level (R163). -/
theorem v8Begin_of_base_fits {c : WalkCfg} {assured : Bool} {level : Int} {ia : Nat}
    (h : ¬v8BaseTooLarge (v8InitialBase c level) c.oaSize c.opt52 = true) :
    ∃ p, v8Begin c assured level ia = .ok (.go p) ∧ p.level = level := ⟨_, if_neg h, rfl⟩

/-- What the check of a base address compares (R183). -/
theorem v8BaseTooLarge_iff {base oaSize : Nat} {opt52 : Bool} :
    v8BaseTooLarge base oaSize opt52 = true ↔
      oaSize < v8MaxOa opt52 ∧ base % 2 ^ v8MaxOa opt52 / 2 ^ oaSize ≠ 0 := by
  simp only [v8BaseTooLarge, Bool.and_eq_true, decide_eq_true_eq, bne_iff_ne]

/-- Settles O42: the walk comes to the check of its base address, and the base address checked is the one of the
statement, aligned down to the table. -/
theorem largeBaseAddressFaultsAtLevelZero : Obligations.LargeBaseAddressFaultsAtLevelZero := by
  intro s c assured ia level hs hl hia x base
  rw [startWalk_eq_v8Begin hs hl hia]
  have hbase : v8InitialBase c level = base := rfl
  split
  next hlarge =>
    exact ⟨.baseAddress, v8Begin_of_base_tooLarge (v8BaseTooLarge_iff.mpr (hbase ▸ hlarge))⟩
  next hfits =>
    exact v8Begin_of_base_fits fun h => hfits (hbase ▸ v8BaseTooLarge_iff.mp h)

end Sys2Proof.Machine

/-! SUPPORT. Every step keeps the invariant: the levels walks read at, the TLB entries they leave, the invariant under
each kind of update (spec/10_state.md R21, R22, R70; 40_walk_generic.md R210; 60_exceptions.md R507, R530), and the
statement O29. -/

namespace Sys2Proof.Machine

/-! ### The levels of lookups (R163, R167, R385, R400, R408) -/

/-- A lookup level of one of the two systems: -2 to 3 (R408). -/
def LookupLevel (level : Int) : Prop := -2 ≤ level ∧ level ≤ 3

/-- The tables of stage 1 initial lookups name lookup levels (R272, R312, R352). -/
theorem lookupLevel_of_v8S1Start {c : WalkCfg} {l : Int} (h : v8S1Start c = some l) : LookupLevel l := by
  unfold v8S1Start at h
  cases hg : c.granule with
  | g4K => grind [LookupLevel, s1Start4K]
  | g16K => grind [LookupLevel, s1Start16K]
  | g64K => grind [LookupLevel, s1Start64K]

/-- So do those of stage 2 (R273, R314, R354). -/
theorem lookupLevel_of_v8S2Start {c : WalkCfg} {l : Int} (h : v8S2Start c = some l) : LookupLevel l := by
  unfold v8S2Start at h
  cases hg : c.granule with
  | g4K => grind [LookupLevel, s2Start4K]
  | g16K => grind [LookupLevel, s2Start16K]
  | g64K => grind [LookupLevel, s2Start64K]

/-- The regular start level is no level below -2 (R382). -/
theorem v9RegularStart_ge {g : Granule} {sz : Nat} {two : Bool} {l : Int} (h : v9RegularStart g sz two = some l) :
    -2 ≤ l := by
  unfold v9RegularStart at h
  cases g <;> grind

/-- A walk starts at a lookup level. -/
theorem startWalk_lookupLevel {s : State} {c : WalkCfg} {assured : Bool} {ia : Nat} {p : WalkPos}
    (h : startWalk s c assured ia = .ok (.go p)) : LookupLevel p.level := by
  rcases startWalk_go h with ⟨-, l, ⟨-, hl⟩ | ⟨-, hl⟩, rfl⟩ | ⟨-, l, hl, hle, rfl⟩
  · exact lookupLevel_of_v8S1Start hl
  · exact lookupLevel_of_v8S2Start hl
  · have := v9RegularStart_ge hl
    exact ⟨by dsimp only; omega, hle⟩

/-- An open point leads to no lookup. -/
theorem openPoint_ne_go {s : State} {pt : OpenPoint} {c : WalkCfg} {assured : Bool} {ia : Nat} {p : WalkPos} :
    openPoint s pt c assured ia ≠ .ok (.go p) := by
  intro h
  unfold openPoint at h
  split at h
  next => cases h
  next => cases h
  next => split at h <;> cases h

/-- A VMSAv8-64 Table descriptor is allowed at no level above 2 (R264, R304, R344). -/
theorem v8TableAllowed_le {g : Granule} {level : Int} {ds : Bool} (h : v8TableAllowed g level ds = true) :
    level ≤ 2 := by
  cases g <;> simp [v8TableAllowed, tableLevel4K, tableLevel16K, tableLevel64K] at h <;> omega

/-- A VMSAv9-128 next level table that is not too large belongs to a level up to 3 (R400). -/
theorem v9_next_level_le {g : Granule} {level : Int} {skl : BitVec 2} (h : v9TableTooLarge g level skl = false) :
    level + 1 + skl.toNat ≤ 3 := by
  have hfits : (skl.toNat + 1) * v9Stride g ≤ (3 - level).toNat * v9Stride g := Nat.not_lt.mp (of_decide_eq_false h)
  have hstride : 0 < v9Stride g := by cases g <;> decide
  have := Nat.le_of_mul_le_mul_right hfits hstride
  omega

/-- A Table descriptor of a lookup level leads to a lookup level. -/
theorem descStep_lookupLevel {c : WalkCfg} {p p' : WalkPos} {d : Desc} {mro : Bool} {ia : Nat}
    (hp : LookupLevel p.level) (h : descStep c p d mro ia = .ok (.go p')) : LookupLevel p'.level := by
  obtain ⟨hlo, -⟩ := hp
  obtain ⟨t, -, ⟨-, ht, rfl⟩ | ⟨-, ht, rfl⟩⟩ := descStep_go h
  · have := v8TableAllowed_le ht
    constructor <;> simp only [nextPos] <;> omega
  · exact ⟨by simp only [nextPos]; omega, v9_next_level_le ht⟩

/-! ### The TLB entries that a translation leaves (R70, R210, R507) -/

/-- The entries that these lookups leave for a TLB may be cached. -/
def EntriesOk (l : Launch) (notes : List LookupNote) : Prop := ∀ n ∈ notes, ∀ t, n.entry = some t → EntryOk l t

@[simp] theorem entriesOk_nil (l : Launch) : EntriesOk l [] := fun _ h => absurd h List.not_mem_nil

/-- The entries of a continued part are those of its two parts. -/
theorem EntriesOk.bind {α β : Type} {l : Launch} {x : Traced α} {f : α → Traced β} (hx : EntriesOk l x.1)
    (hf : ∀ a, x.2 = .ok a → EntriesOk l (f a).1) : EntriesOk l (x.bind f).1 := by
  intro n hn
  rcases Traced.mem_bind.mp hn with hn | ⟨a, ha, hn⟩
  · exact hx n hn
  · exact hf a ha n hn

/-- The use of a descriptor that leaves an entry is a step of the walk, without an Access flag fault. -/
theorem useCacheable_iff {l : Launch} {c : WalkCfg} {x : Res WalkStep} :
    useCacheable l c x = true ↔ ∃ y, x = .ok y ∧ ∀ r, y = .done r → accessFlagMarked l c.stage r.perms = false := by
  rcases x with (p | r) | f | f | f <;> simp [useCacheable]

/-- What a lookup of a lookup level leaves for the TLB may be cached. -/
theorem descUse_entriesOk {l : Launch} {c : WalkCfg} {p : WalkPos} {d : Desc} {at_ : DescPlace} {ia : Nat}
    (hp : LookupLevel p.level) : EntriesOk l (descUse l c p d at_ ia).1 := by
  intro n hn t ht
  obtain rfl := List.mem_singleton.mp hn
  simp only [lookupNote] at ht
  split at ht
  next hu =>
    cases ht
    obtain ⟨y, hy, hflag⟩ := useCacheable_iff.mp hu
    exact ⟨hp.1, hp.2, ia, y, rfl, hy, hflag⟩
  next => cases ht

/-- The lookups of one stage, from a lookup level on, leave entries that may be cached. -/
theorem walkLoop_entriesOk {e : WalkEnv} {c : WalkCfg} {place : WalkPos → Traced DescPlace} {ia n : Nat} {p : WalkPos}
    (hplace : ∀ p, EntriesOk e.s.launch (place p).1) (hp : LookupLevel p.level) :
    EntriesOk e.s.launch (walkLoop e c place ia n p).1 := by
  induction n generalizing p with
  | zero => exact entriesOk_nil _
  | succ n ih =>
    refine (hplace p).bind fun at_ _ => (entriesOk_nil _).bind fun d _ => (descUse_entriesOk hp).bind fun x hx => ?_
    cases x with
    | go p' => exact ih (descStep_lookupLevel hp hx)
    | done r => exact entriesOk_nil _

/-- So do those that follow a walk step which leads to a lookup level. -/
theorem walkFrom_entriesOk {e : WalkEnv} {c : WalkCfg} {place : WalkPos → Traced DescPlace} {ia : Nat}
    {x : Res WalkStep} (hplace : ∀ p, EntriesOk e.s.launch (place p).1)
    (hx : ∀ p, x = .ok (.go p) → LookupLevel p.level) : EntriesOk e.s.launch (walkFrom e c place ia x).1 := by
  refine (entriesOk_nil _).bind fun y hy => ?_
  cases y with
  | go p => exact walkLoop_entriesOk hplace (hx p hy)
  | done r => exact entriesOk_nil _

/-- One stage leaves entries that may be cached: it starts at a lookup level, or goes on from an entry of the TLB. -/
theorem runStage_entriesOk {e : WalkEnv} {c : WalkCfg} {place : WalkPos → Traced DescPlace} {ia : Nat}
    {assured epd : Bool} (htlb : ∀ t ∈ e.s.tlb, EntryOk e.s.launch t)
    (hplace : ∀ p, EntriesOk e.s.launch (place p).1) :
    EntriesOk e.s.launch (runStage e c place ia assured epd).1 := by
  rcases runStage_cases e c place ia assured epd with h | h | ⟨t, ht, -, -, h⟩ <;> rw [h]
  · exact entriesOk_nil _
  · exact walkFrom_entriesOk hplace fun p => startWalk_lookupLevel
  · obtain ⟨hlo, hhi, -⟩ := htlb t ht
    exact walkFrom_entriesOk hplace fun p => descStep_lookupLevel ⟨hlo, hhi⟩

theorem stage2_entriesOk {e : WalkEnv} {ss : SecState} {use : S2Use} {ipa : Nat} {sp : Space}
    (htlb : ∀ t ∈ e.s.tlb, EntryOk e.s.launch t) : EntriesOk e.s.launch (stage2 e ss use ipa sp).1 := by
  refine (runStage_entriesOk htlb fun _ => entriesOk_nil _).bind fun d _ => ?_
  split <;> exact entriesOk_nil _

/-- Finding a stage 1 descriptor leaves the entries of its stage 2 (R178). -/
theorem stage1Place_entriesOk {e : WalkEnv} {c : WalkCfg} (htlb : ∀ t ∈ e.s.tlb, EntryOk e.s.launch t) (p : WalkPos) :
    EntriesOk e.s.launch (stage1Place e c p).1 := by
  unfold stage1Place
  split
  · exact EntriesOk.bind (stage2_entriesOk (e := { e with ctx := p.level }) htlb) fun d _ =>
      (entriesOk_nil _).bind fun _ _ => entriesOk_nil _
  · exact entriesOk_nil _

section
variable {s : State} (htlb : ∀ t ∈ s.tlb, EntryOk s.launch t)
include htlb

theorem stage1Walk_entriesOk {r : SysRegs} {force : Bool} {q : Request} :
    EntriesOk s.launch (stage1Walk s r force q).1 :=
  runStage_entriesOk (e := envOf s r force q) htlb (stage1Place_entriesOk htlb)

theorem firstStage_entriesOk {r : SysRegs} {force : Bool} {q : Request} :
    EntriesOk s.launch (firstStage s r force q).1 := by
  unfold firstStage stage1
  dsimp only
  split
  next => exact entriesOk_nil _
  next =>
    split
    next =>
      split
      next => exact entriesOk_nil _
      next =>
        split
        next => exact entriesOk_nil _
        next => exact stage1Walk_entriesOk htlb
    next =>
      split
      next =>
        exact walkFrom_entriesOk (e := envOf s r force q) (fun _ => entriesOk_nil _) fun p h =>
          absurd h openPoint_ne_go
      next => exact stage1Walk_entriesOk htlb

theorem secondStage_entriesOk {r : SysRegs} {force : Bool} {q : Request} {o : StageOk} :
    EntriesOk s.launch (secondStage s r force q o).1 := by
  unfold secondStage
  split
  next => exact entriesOk_nil _
  next =>
    split
    next => exact EntriesOk.bind (stage2_entriesOk (e := envOf s r force q) htlb) fun d _ => entriesOk_nil _
    next => exact entriesOk_nil _

/-- A translation leaves entries that may be cached. -/
theorem translateAddress_entriesOk {q : Request} : EntriesOk s.launch (translateAddress s q).1 := by
  obtain ⟨force, h⟩ := translateAddress_attempt s q
  rw [h]
  exact ((firstStage_entriesOk htlb).bind fun o _ => secondStage_entriesOk htlb).bind fun t _ => entriesOk_nil _

end

/-! ### The invariant under each kind of update -/

/-- A state with the same launch parameters, memory, pending writes, TLB, pc and Exception level has the invariant
too. -/
theorem Inv.of_eq {s t : State} (h : Inv s) (hlaunch : t.launch = s.launch) (hmem : t.mem = s.mem)
    (hpending : t.pendingWrites = s.pendingWrites) (htlb : t.tlb = s.tlb) (hpc : t.pc = s.pc) (hel : t.el = s.el) :
    Inv t where
  memory := hmem ▸ h.memory
  cells := hmem ▸ hlaunch ▸ h.cells
  pending := hpending ▸ hlaunch ▸ h.pending
  tlb := htlb ▸ hlaunch ▸ h.tlb
  aligned := hpc ▸ h.aligned
  level := hel ▸ hlaunch ▸ h.level

theorem Inv.answer {s : State} (h : Inv s) (o : Output) : Inv (s.answer o) := h.of_eq rfl rfl rfl rfl rfl rfl

theorem Inv.noteWalk {s : State} (h : Inv s) (notes : List LookupNote) : Inv (s.noteWalk notes) :=
  h.of_eq rfl rfl rfl rfl rfl rfl

theorem Inv.noteExecuted {s : State} (h : Inv s) : Inv s.noteExecuted := h.of_eq rfl rfl rfl rfl rfl rfl

theorem Inv.noteSoft {s : State} (h : Inv s) (k n : Nat) (a : Attrs) (b : Bool) : Inv (s.noteSoft k n a b) :=
  h.of_eq rfl rfl rfl rfl rfl rfl

theorem Inv.writePar {s : State} (h : Inv s) (p : Par) : Inv (s.writePar p) := h.of_eq rfl rfl rfl rfl rfl rfl

theorem Inv.bumpDraws {s : State} (h : Inv s) : Inv s.bumpDraws := h.of_eq rfl rfl rfl rfl rfl rfl

/-- Pending writes may become any at addresses that exist. -/
theorem Inv.withPending {s : State} (h : Inv s) {ws : List PendingWrite}
    (hws : ∀ w ∈ ws, ∀ c ∈ w.cells, KeyExists s.launch c.1) : Inv { s with pendingWrites := ws } :=
  { h with pending := hws }

/-- The TLB may become any of entries that may be cached. -/
theorem Inv.withTlb {s : State} (h : Inv s) {ts : List TlbEntry} (hts : ∀ t ∈ ts, EntryOk s.launch t) :
    Inv { s with tlb := ts } :=
  { h with tlb := hts }

/-- The pc may become any aligned one. -/
theorem Inv.withPc {s : State} (h : Inv s) {pc : Word} (hpc : pc.toNat % 4 = 0) : Inv { s with pc := pc } :=
  { h with aligned := hpc }

/-- The next word is aligned. -/
theorem Inv.advancePc {s : State} (h : Inv s) : Inv s.advancePc :=
  h.withPc (by have := h.aligned; bv_omega)

/-- The Exception level may become any that the PE has, with any PSTATE.PAN. -/
theorem Inv.withContext {s : State} (h : Inv s) {el : EL} (hel : levelExists s.launch el = true) (pan : Bool) :
    Inv { s with el := el, pan := pan } :=
  { memory := h.memory, cells := h.cells, pending := h.pending, tlb := h.tlb, aligned := h.aligned, level := hel }

theorem Inv.afterAt {s : State} (h : Inv s) (p : Par) : Inv (afterAt s p) := (h.writePar p).advancePc.bumpDraws

/-- A new pending write is of bytes that exist. -/
theorem Inv.addWrite {s : State} (h : Inv s) {w : PendingWrite} (hw : ∀ c ∈ w.cells, KeyExists s.launch c.1) :
    Inv (s.addWrite w) :=
  h.withPending fun v hv => by
    rcases List.mem_append.mp hv with hv | hv
    · exact h.pending v hv
    · exact List.mem_singleton.mp hv ▸ hw

/-- A read marks pending writes and leaves their bytes. -/
theorem Inv.noteRead {s : State} (h : Inv s) (k n : Nat) (simd : Bool) : Inv (s.noteRead k n simd) :=
  h.withPending fun w hw => by
    cases simd with
    | true => exact h.pending w hw
    | false =>
      obtain ⟨v, hv, hwv⟩ := mem_markRead hw
      rw [hwv]
      exact h.pending v hv

/-- The bytes from the key of a place that exists on exist. -/
theorem keyExists_of_mem_cellsFrom {l : Launch} {sp : Space} {pa : Nat} {bs : List Byte}
    (h : physExists l sp pa bs.length = true) : ∀ c ∈ cellsFrom (memKey sp pa) bs, KeyExists l c.1 := by
  intro c hc
  obtain ⟨hlo, hhi⟩ := mem_cellsFrom hc
  exact keyExists_of_physExists h hlo hhi

/-- The parts of an access write at their own places, which exist. -/
theorem Inv.makeParts {s : State} (h : Inv s) {simd : Bool} {data : AccessData} {m : Progress}
    (hm : ∀ p ∈ m.parts, ∃ sp pa, physExists s.launch sp pa p.bytes = true ∧ p.key = memKey sp pa) :
    Inv (s.makeParts simd data m) := by
  obtain ⟨hwrites, hframe⟩ := makeParts_frame s simd data m
  have hpending : ∀ w ∈ (s.makeParts simd data m).pendingWrites, ∀ c ∈ w.cells, KeyExists s.launch c.1 := by
    intro w hw c hc
    rcases hwrites w hw with ⟨v, hv, hwv⟩ | ⟨p, hp, hcells⟩
    · rw [hwv] at hc
      exact h.pending v hv c hc
    · obtain ⟨sp, pa, hx, hkey⟩ := hm p hp
      obtain ⟨hlo, hhi⟩ := hcells c hc
      exact keyExists_of_physExists hx (hkey ▸ hlo) (hkey ▸ hhi)
  rw [hframe]
  exact (h.withPending hpending).of_eq rfl rfl rfl rfl rfl rfl

/-- A barrier moves bytes of pending writes into memory and leaves some of them pending (R96, R115). -/
theorem Inv.settle {s : State} (h : Inv s) (ord : PendingWrite → Bool) : Inv (s.settle ord) where
  memory := settle_wf s ord h.memory
  cells := by
    intro c hc
    rcases mem_commitWrites hc with hc | ⟨w, hw, d, hd, hkey⟩
    · exact h.cells c hc
    · obtain ⟨v, hv, hcells⟩ := mem_orderedPart hw
      exact hkey ▸ h.pending v hv d (hcells d hd)
  pending := by
    intro w hw c hc
    obtain ⟨v, hv, -, hcells, -⟩ := mem_settle_pending hw
    exact h.pending v hv c (hcells c hc)
  tlb := h.tlb
  aligned := h.aligned
  level := h.level

/-- A branch goes to a word. -/
theorem wordAddress_aligned (target : BitVec 62) : (wordAddress target).toNat % 4 = 0 := by
  rw [wordAddress, BitVec.toNat_append]
  simp [Nat.shiftLeft_eq]

theorem Inv.branch {s : State} (h : Inv s) (target : BitVec 62) : Inv (s.branch target) :=
  (h.withPc (wordAddress_aligned target)).of_eq rfl rfl rfl rfl rfl rfl

/-! ### The invariant after a step -/

theorem doTranslate_inv {s t : State} {acc : Access} {va : Word} {p : Purpose} (hs : Inv s)
    (h : doTranslate s acc va p = .next t) : Inv t := by
  obtain ⟨notes, o, rfl⟩ := doTranslate_next h
  exact (hs.noteWalk notes).answer o

theorem doAccess_inv {s t : State} {a : ExplicitAccess} {data : AccessData} {answer : List AccessPart → Output}
    (hs : Inv s) (h : doAccess s a data answer = .next t) : Inv t := by
  obtain ⟨m, o, rfl, hm⟩ := doAccess_next h
  exact (hs.makeParts hm).answer o

theorem doRead_inv {s t : State} {a : ExplicitAccess} (hs : Inv s) (h : doRead s a = .next t) : Inv t :=
  doAccess_inv hs h

theorem doWrite_inv {s t : State} {a : ExplicitAccess} {v : BitVec 128} (hs : Inv s) (h : doWrite s a v = .next t) :
    Inv t :=
  doAccess_inv hs h

theorem doOtherWrite_inv {s t : State} {sp : Space} {pa : PAddr} {bytes : List Byte} {reduced : Bool} (hs : Inv s)
    (h : doOtherWrite s sp pa bytes reduced = .next t) : Inv t := by
  obtain ⟨hx, w, hcells, rfl⟩ := doOtherWrite_next h
  exact (hs.addWrite (hcells ▸ keyExists_of_mem_cellsFrom hx)).answer .none

theorem doRcw_inv {s t : State} {sw wide : Bool} {sp : Space} {slot : Nat} {new : Raw} {attrs : Attrs} (hs : Inv s)
    (h : doRcw s sw wide sp slot new attrs = .next t) : Inv t := by
  obtain ⟨hx, rfl | ⟨w, ee, v, hcells, rfl⟩⟩ := doRcw_next h
  · exact ((hs.noteRead _ _ _).noteSoft _ _ _ _).answer _
  · have hw : ∀ c ∈ w.cells, KeyExists s.launch c.1 :=
      hcells ▸ keyExists_of_mem_cellsFrom (by rwa [bytesOfDesc_length])
    exact (((hs.noteRead _ _ _).noteSoft _ _ _ _).addWrite hw).answer _

/-- A TLB fill adds entries that its walk left, and these may be cached (R70, R210). -/
theorem doFill_inv {s t : State} {acc : Access} {g : Regime} {va : Word} {keep : Nat} (hs : Inv s)
    (h : doFill s acc g va keep = .next t) : Inv t := by
  obtain ⟨q, rfl⟩ := doFill_next h
  refine ((hs.noteWalk _).withTlb fun e he => ?_).answer .none
  rcases List.mem_append.mp he with he | he
  · obtain ⟨n, hn, hentry⟩ := mem_tlbEntries.mp (mem_of_mem_keepBits he)
    exact translateAddress_entriesOk hs.tlb n hn e hentry
  · exact hs.tlb e he

theorem doSpeculativeFetch_inv {s t : State} {va : Word} (hs : Inv s) (h : doSpeculativeFetch s va = .next t) :
    Inv t := by
  obtain ⟨notes, o, rfl⟩ := doSpeculativeFetch_next h
  exact (hs.noteWalk notes).answer o

/-- A context change goes to a level the PE has (R530). -/
theorem doContext_inv {s t : State} {el : EL} {pan : Bool} (hs : Inv s) (h : doContext s el pan = .next t) :
    Inv t := by
  obtain ⟨hel, rfl⟩ := doContext_next h
  exact (hs.withContext hel pan).answer .none

/-- Every event of the environment keeps the invariant. -/
theorem applyEvent_inv {s t : State} {ev : Event} (hs : Inv s) (h : applyEvent s ev = .next t) : Inv t := by
  cases ev with
  | translate acc va => exact doTranslate_inv hs h
  | cacheMaintenance va => exact doTranslate_inv hs h
  | memRead a => exact doRead_inv hs h
  | memWrite a v => exact doWrite_inv hs h
  | otherWrite sp pa bytes reduced => exact doOtherWrite_inv hs h
  | rcw sw wide sp slot new attrs => exact doRcw_inv hs h
  | tlbFill acc g va keep => exact doFill_inv hs h
  | speculativeFetch va => exact doSpeculativeFetch_inv hs h
  | context el pan => exact doContext_inv hs h
  | otherDsb => exact next_inj h ▸ (hs.settle _).answer _
  | dsb => exact next_inj h ▸ (hs.settle _).answer _
  | tlbEvict n => exact next_inj h ▸ (hs.withTlb fun e he => hs.tlb e (mem_of_mem_dropAt he)).answer _
  | directBranch target => exact next_inj h ▸ (hs.branch target).answer _
  | isb => exact next_inj h ▸ hs.of_eq rfl rfl rfl rfl rfl rfl
  | directWrite w => exact next_inj h ▸ hs.of_eq rfl rfl rfl rfl rfl rfl
  | readPar => exact next_inj h ▸ hs.of_eq rfl rfl rfl rfl rfl rfl
  | icacheSync va => exact next_inj h ▸ hs.of_eq rfl rfl rfl rfl rfl rfl
  | writeX r v => exact next_inj h ▸ hs.of_eq rfl rfl rfl rfl rfl rfl

/-- Every instruction that is fetched and completes keeps the invariant. -/
theorem stepInstr_inv {s t : State} (hs : Inv s) (h : stepInstr s = .next t) : Inv t := by
  obtain ⟨i, hi⟩ := stepInstr_next h
  obtain ⟨notes, p, rfl⟩ := exec_next hi
  exact ((hs.noteExecuted.noteWalk _).noteWalk notes).afterAt p

/-- Settles O29: a step applies the next event or runs an instruction, and both keep the invariant. -/
theorem stepKeepsTheInvariant : Obligations.StepKeepsTheInvariant := by
  intro s t hs h
  cases hin : s.inputs with
  | nil =>
    rw [step_of_no_inputs hin] at h
    exact stepInstr_inv hs h
  | cons ev rest =>
    rw [step_of_event hin] at h
    have hs' : Inv { s with inputs := rest, draws := s.draws + 1 } := hs.of_eq rfl rfl rfl rfl rfl rfl
    exact applyEvent_inv hs' h

end Sys2Proof.Machine

/-! SUPPORT. What a translation sees of the direct writes of system registers (spec/20_memory.md R98, R99;
70_reset_and_hazards.md R573, R577), and the statements O30 and O31. -/

namespace Sys2Proof.Machine

/-! ### The TTBR writes that a translation observes (R98, R573) -/

/-- Two views of the registers agree on TTBR0_ELx and TTBR1_ELx of every Exception level. -/
structure SameTtbrs (r r' : SysRegs) : Prop where
  ttbr0El1 : r.ttbr0El1 = r'.ttbr0El1
  ttbr1El1 : r.ttbr1El1 = r'.ttbr1El1
  ttbr0El2 : r.ttbr0El2 = r'.ttbr0El2
  ttbr1El2 : r.ttbr1El2 = r'.ttbr1El2
  ttbr0El3 : r.ttbr0El3 = r'.ttbr0El3

theorem SameTtbrs.refl (r : SysRegs) : SameTtbrs r r := ⟨rfl, rfl, rfl, rfl, rfl⟩

/-- A write of another register changes none of them. -/
theorem SameTtbrs.apply_right {w : SysWrite} {r r' : SysRegs} (h : SameTtbrs r r') (hw : w.isTtbr = false) :
    SameTtbrs r (w.apply r') := by
  obtain ⟨h1, h2, h3, h4, h5⟩ := h
  cases w <;> cases hw <;> exact ⟨h1, h2, h3, h4, h5⟩

theorem SameTtbrs.apply_left {w : SysWrite} {r r' : SysRegs} (h : SameTtbrs r r') (hw : w.isTtbr = false) :
    SameTtbrs (w.apply r) r' := by
  obtain ⟨h1, h2, h3, h4, h5⟩ := h
  cases w <;> cases hw <;> exact ⟨h1, h2, h3, h4, h5⟩

/-- Any write keeps the agreement where both views take it. -/
theorem SameTtbrs.apply {r r' : SysRegs} (h : SameTtbrs r r') (w : SysWrite) : SameTtbrs (w.apply r) (w.apply r') := by
  obtain ⟨h1, h2, h3, h4, h5⟩ := h
  cases w <;> constructor <;> simp [SysWrite.apply, *]

/-- Observing no TTBR write leaves these registers as they were. -/
theorem observeWrites_zero_sameTtbrs (ws : List SysWrite) (mask : Nat) {r r' : SysRegs} (h : SameTtbrs r r') :
    SameTtbrs (observeWrites ws 0 mask r) r' := by
  induction ws generalizing mask r with
  | nil => exact h
  | cons w ws ih =>
    unfold observeWrites
    split
    next => exact ih _ h
    next hw =>
      split
      next => exact ih _ (h.apply_left (by simpa using hw))
      next => exact ih _ h

/-- Observing the first `j` TTBR writes, and any of the others, leaves these registers as all writes before some
point of the order do. -/
theorem observeWrites_sameTtbrs (ws : List SysWrite) (j mask : Nat) {r r' : SysRegs} (h : SameTtbrs r r') :
    ∃ pre rest, ws = pre ++ rest ∧ SameTtbrs (observeWrites ws j mask r) (pre.foldl (fun r w => w.apply r) r') := by
  induction ws generalizing j mask r r' with
  | nil => exact ⟨[], [], rfl, h⟩
  | cons w ws ih =>
    cases j with
    | zero => exact ⟨[], w :: ws, rfl, observeWrites_zero_sameTtbrs _ _ h⟩
    | succ j =>
      have extend : ∀ {j : Nat} {r : SysRegs}, SameTtbrs r (w.apply r') → ∃ pre rest, w :: ws = pre ++ rest ∧
          SameTtbrs (observeWrites ws j (mask / 2) r) (pre.foldl (fun r w => w.apply r) r') := by
        intro j r hr
        obtain ⟨pre, rest, hws, hsame⟩ := ih j (mask / 2) hr
        exact ⟨w :: pre, rest, congrArg (w :: ·) hws, hsame⟩
      unfold observeWrites
      split
      next => exact extend (h.apply w)
      next hw =>
        split
        next => exact extend (h.apply w)
        next => exact extend (h.apply_right (by simpa using hw))

/-- Every view of the registers has these registers as the pending writes before some point leave them. -/
theorem regsView_sameTtbrs (s : State) (p : Purpose) :
    ∃ pre rest, s.pendingRegs = pre ++ rest ∧
      SameTtbrs (regsView s p) (pre.foldl (fun r w => w.apply r) s.regs) := by
  cases hws : s.pendingRegs with
  | nil => exact ⟨[], [], rfl, by rw [regsView_of_synced s p hws]; exact .refl _⟩
  | cons w ws =>
    unfold regsView
    rw [hws]
    exact observeWrites_sameTtbrs _ _ _ (.refl _)

/-- Settles O30: a view observes the first so many TTBR writes, and the writes of other registers do not matter to
the TTBRs, so that the point lies behind the last one observed. -/
theorem ttbrsAreSeenAtOnePoint : Obligations.TtbrsAreSeenAtOnePoint := by
  intro s p
  obtain ⟨pre, rest, hws, h1, h2, h3, h4, h5⟩ := regsView_sameTtbrs s p
  exact ⟨pre, rest, hws, h1, h2, h3, h4, h5⟩

/-! ### Context synchronization (R99, R577) -/

/-- With no stale value a direct read of PAR_EL1 gives its value. -/
theorem applyEvent_readPar_of_fresh {s : State} (h : s.parStale = []) :
    applyEvent s .readPar = .next (s.answer (.parValue s.par)) := by
  rw [applyEvent, h, pick_nil]

/-- Settles O31: an ISB leaves no write of a register pending and no stale value of PAR_EL1. -/
theorem isbClosesTheRegisterWindows : Obligations.IsbClosesTheRegisterWindows := by
  intro s
  refine ⟨s.sync.answer .none, rfl, fun p => ?_, _, applyEvent_readPar_of_fresh rfl, rfl⟩
  exact regsView_of_synced (s.sync.answer .none) p rfl

end Sys2Proof.Machine

/-! SUPPORT. The places of the descriptors a walk reads: their alignment and their PA space (spec/20_memory.md R85,
R106; 42_granule_4k.md R286 and siblings; 45_vmsav9_128.md R391, R401), and the statements O53 and O49. -/

namespace Sys2Proof.Machine

/-! ### Descriptor addresses (R85) -/

/-- An address aligned to a power of two is aligned to every smaller one. -/
theorem dvd_alignDown {v x n : Nat} (h : n ≤ x) : 2 ^ n ∣ alignDown v x :=
  Dvd.dvd.mul_left (Nat.pow_dvd_pow 2 h) _

/-- A VMSAv8-64 descriptor address in a table of at least 8 bytes is aligned to 8 (R286, R326, R366). -/
theorem eight_dvd_v8DescAddr {g : Granule} {level : Int} {initial : Bool} {sz paSize base ia : Nat}
    (h : 3 ≤ v8X g level initial sz) : 8 ∣ v8DescAddr g level initial sz paSize base ia :=
  dvd_add (dvd_alignDown (n := 3) h) (Nat.dvd_mul_left 8 _)

/-- A VMSAv9-128 start level address is aligned to 16 (R391). -/
theorem sixteen_dvd_v9StartAddr (g : Granule) (sz : Nat) (start : Int) (base : PAddr) (ia : Nat) :
    16 ∣ v9StartAddr g sz start base ia :=
  dvd_add (dvd_alignDown (n := 4) (Nat.le_add_left 4 _)) (Nat.dvd_mul_left 16 _)

/-- A VMSAv9-128 next level address is aligned to 16 (R401). -/
theorem sixteen_dvd_v9NextAddr (g : Granule) (level : Int) (skl : BitVec 2) (next : PAddr) (ia : Nat) :
    16 ∣ v9NextAddr g level skl next ia :=
  dvd_add (dvd_alignDown (n := 4) (Nat.le_add_left 4 _)) (Nat.dvd_mul_left 16 _)

/-- The TnSZ of every row of stage 1 initial lookups leaves a table of at least 8 bytes (R272, R312, R352). -/
theorem three_le_v8X_of_v8S1Start {c : WalkCfg} {l : Int} (h : v8S1Start c = some l) :
    3 ≤ v8X c.granule l true c.sz := by
  unfold v8S1Start at h
  unfold v8X v8C
  cases hg : c.granule <;> rw [hg] at h <;> dsimp only at h ⊢
  case g4K => unfold s1Start4K at h; split_ifs at h <;> cases h <;> simp [c4K] <;> omega
  case g16K => unfold s1Start16K at h; split_ifs at h <;> cases h <;> simp [c16K] <;> omega
  case g64K => unfold s1Start64K at h; split_ifs at h <;> cases h <;> simp [c64K] <;> omega

/-- So does the T0SZ of every row of stage 2 with the 4KB granule (R276 to R281). -/
theorem three_le_of_s2Consistent4K {level : Int} {sz : Nat} {ds ttst : Bool}
    (h : s2Consistent4K level sz ds ttst = true) : 3 ≤ c4K level - sz := by
  unfold s2Consistent4K at h
  split_ifs at h <;> simp_all [c4K] <;> omega

/-- With the 16KB granule (R316 to R320). -/
theorem three_le_of_s2Consistent16K {level : Int} {sz : Nat} {ds ttst : Bool}
    (h : s2Consistent16K level sz ds ttst = true) : 3 ≤ c16K level - sz := by
  unfold s2Consistent16K at h
  split_ifs at h <;> simp_all [c16K] <;> omega

/-- With the 64KB granule (R356 to R359). -/
theorem three_le_of_s2Consistent64K {level : Int} {sz : Nat} {lpa ttst : Bool}
    (h : s2Consistent64K level sz lpa ttst = true) : 3 ≤ c64K level - sz := by
  unfold s2Consistent64K at h
  split_ifs at h <;> simp_all [c64K] <;> omega

/-- A stage 2 walk starts only where T0SZ is consistent, with a table of at least 8 bytes. -/
theorem three_le_v8X_of_v8S2Start {c : WalkCfg} {l : Int} (h : v8S2Start c = some l) :
    3 ≤ v8X c.granule l true c.sz := by
  unfold v8S2Start at h
  unfold v8X v8C
  cases hg : c.granule <;> rw [hg] at h <;> dsimp only at h ⊢
  case g4K =>
    split at h
    next =>
      split at h
      next hc => cases h; exact three_le_of_s2Consistent4K hc
      next => cases h
    next => cases h
  case g16K =>
    split at h
    next hc => cases h; exact three_le_of_s2Consistent16K hc
    next => cases h
  case g64K =>
    split at h
    next =>
      split at h
      next hc => cases h; exact three_le_of_s2Consistent64K hc
      next => cases h
    next => cases h

/-- A table of a later lookup is a whole granule. -/
theorem three_le_v8X_later (g : Granule) (level : Int) (sz : Nat) : 3 ≤ v8X g level false sz := by
  cases g <;> simp [v8X, Granule.bits]

/-- The first lookup of a walk is of an aligned descriptor. -/
theorem startWalk_da_aligned {s : State} {c : WalkCfg} {assured : Bool} {ia : Nat} {p : WalkPos}
    (h : startWalk s c assured ia = .ok (.go p)) : descBytes c.system ∣ p.da := by
  rcases startWalk_go h with ⟨hs, l, ⟨-, hl⟩ | ⟨-, hl⟩, rfl⟩ | ⟨hs, l, -, -, rfl⟩ <;> rw [hs]
  · exact eight_dvd_v8DescAddr (three_le_v8X_of_v8S1Start hl)
  · exact eight_dvd_v8DescAddr (three_le_v8X_of_v8S2Start hl)
  · exact sixteen_dvd_v9StartAddr ..

/-- A Table descriptor leads to an aligned descriptor. -/
theorem descStep_da_aligned {c : WalkCfg} {p p' : WalkPos} {d : Desc} {mro : Bool} {ia : Nat}
    (h : descStep c p d mro ia = .ok (.go p')) : descBytes c.system ∣ p'.da := by
  obtain ⟨t, -, ⟨hs, -, rfl⟩ | ⟨hs, -, rfl⟩⟩ := descStep_go h <;> rw [hs]
  · exact eight_dvd_v8DescAddr (three_le_v8X_later ..)
  · exact sixteen_dvd_v9NextAddr ..

/-- Settles O53: every formula of a descriptor address adds a multiple of the descriptor's size to the base of a
table that is no smaller. -/
theorem descriptorAddressesAreAligned : Obligations.DescriptorAddressesAreAligned :=
  ⟨fun _ _ _ _ _ h => Nat.mod_eq_zero_of_dvd (startWalk_da_aligned h),
    fun _ _ _ _ _ _ h => Nat.mod_eq_zero_of_dvd (descStep_da_aligned h)⟩

/-! ### The PA space of the lookups (R104 to R112) -/

/-- The first lookup is in the space that the controls of the walk give. -/
theorem startWalk_space {s : State} {c : WalkCfg} {assured : Bool} {ia : Nat} {p : WalkPos}
    (h : startWalk s c assured ia = .ok (.go p)) : p.space = c.lookupSpace := by
  rcases startWalk_go h with ⟨-, l, -, rfl⟩ | ⟨-, l, -, -, rfl⟩ <;> rfl

/-- A Table descriptor sends the walk to the space that its NSTable bit may change. -/
theorem descStep_table_space {c : WalkCfg} {p p' : WalkPos} {t : TableDesc} {mro : Bool} {ia : Nat}
    (h : descStep c p (.table t) mro ia = .ok (.go p')) : p'.space = nextSpace c p t := by
  obtain ⟨t', ht, ⟨-, -, rfl⟩ | ⟨-, -, rfl⟩⟩ := descStep_go h <;> cases ht <;> rfl

/-- In a Secure stage 1 walk the next lookup is in Secure space only from Secure space with NSTable 0 (R106). -/
theorem nextSpace_of_secure_s1 {c : WalkCfg} (hss : c.ss = .secure) (hst : c.stage = .s1) (p : WalkPos)
    (t : TableDesc) : nextSpace c p t = if p.space = .secure ∧ t.nsTable = false then .secure else .nonSecure := by
  simp [nextSpace, hss, hst]

/-- Settles O49: the first lookup is in the space of the Security state, and NSTable decides as long as the walk is in
Secure space. -/
theorem nsTableLatches : Obligations.NsTableLatches := by
  refine ⟨fun s l r g upper assured ia p h => startWalk_space h, ?_⟩
  intro c p p' t mro ia hss hst h
  rw [descStep_table_space h, nextSpace_of_secure_s1 hss hst]
  constructor
  · intro hp
    cases hns : t.nsTable <;> simp [hp]
  · intro hp
    simp [hp]

end Sys2Proof.Machine

/-! SUPPORT. The order of FEAT_ETS2 and FEAT_ETS3 before the descriptor reads of an access that takes a fault
(spec/20_memory.md R100, R101; 47_at_instructions.md R479), and the statement O35. -/

namespace Sys2Proof.Machine

/-- A translation and its judgement that end in an MMU fault end so in a pass made with earlier explicit accesses
observed, where the features order them before the fault and the access takes it. -/
theorem translateJudged_mmu_ordered {s : State} {q : Request} {judge : TransOk → Option MmuFault} {f : MmuFault}
    (hets : s.launch.featEts3 = true) (htakes : takesFault s.launch q f = true)
    (h : (translateJudged s q judge).2 = .mmu f) :
    (judged judge (attempt s (regsView s q.purpose) true q)).2 = .mmu f := by
  unfold translateJudged at h
  dsimp only at h
  cases hpass : (judged judge (attempt s (regsView s q.purpose) false q)).2 with
  | mmu e =>
    simp only [hpass, etsFault, hets, Bool.true_or, Bool.and_true] at h
    split at h
    next => exact h
    next hnot =>
      rw [hpass] at h
      cases h
      exact absurd htakes hnot
  | ok t => simp [hpass] at h
  | stop e => simp [hpass] at h
  | refuse e => simp [hpass] at h

/-- An explicit data access takes every fault of its translation and its judgement. -/
theorem takesFault_of_explicit {l : Launch} {q : Request} (hp : q.purpose = .explicit) (hform : q.form = none)
    (hk : q.acc.kind ≠ .fetch) (e : MmuFault) : takesFault l q e = true := by
  simp [takesFault, hp, hform, hk]

/-- An AT instruction is a data access. -/
theorem atAccess_kind_ne_fetch (f : AtForm) : (atAccess f).kind ≠ .fetch := by
  unfold atAccess
  cases f.access <;> simp

/-- An AT instruction takes the faults that it does not report (R479). -/
theorem takesFault_of_not_reported {l : Launch} {r : SysRegs} {ss : SecState} {f : AtForm} {va : Word} {e : MmuFault}
    (h : atReports l f e = false) : takesFault l (atRequest r ss f va) e = true := by
  simp [takesFault, atRequest, atAccess_kind_ne_fetch, h]

/-- An AT instruction ends in an MMU fault only where its translation does, and it does not report the fault. -/
theorem atTranslate_exception {f : AtForm} {r : SysRegs} {ss : SecState} {va : Word} {s : State} {e : MmuFault}
    (h : atTranslate f r ss va s = .fault (.mmuException e)) :
    (translateAddress s (atRequest r ss f va)).2 = .mmu e ∧ atReports s.launch f e = false := by
  unfold atTranslate atFinish at h
  dsimp only at h
  split at h
  next => cases h
  next hx =>
    split at h
    next => cases h
    next hr => cases h; exact ⟨hx, by simpa using hr⟩
  next hx =>
    cases h
    rcases translateAddress_stop hx with h | ⟨_, _, h⟩ <;> cases h
  next => cases h

/-- Settles O35: the access of each clause takes the fault that its translation ends in, so that the pass which gives
the fault is the ordered one. -/
theorem ets3FaultsSeeEarlierWrites : Obligations.Ets3FaultsSeeEarlierWrites := by
  constructor
  · intro s q judge f hets hp hform hk h
    have := translateJudged_mmu_ordered hets (takesFault_of_explicit hp hform hk f) h
    rwa [hp] at this
  · intro i s ss f e hets hex hf h
    rw [exec_eq, execAt_of_executes hex, ← hf] at h
    obtain ⟨htr, hnot⟩ := atTranslate_exception h
    have hordered := translateJudged_mmu_ordered (judge := fun _ => none) hets (takesFault_of_not_reported hnot) htr
    rwa [judged_none] at hordered

end Sys2Proof.Machine

/-! SUPPORT. What reads observe of the pending writes (spec/20_memory.md R83, R95, R96, R100, R115, R117), and the
statements O32, O36 and O34. -/

namespace Sys2Proof.Machine

/-! ### Bytes and cells -/

/-- The byte that the cells of bytes in a row give a key of the row. -/
theorem cellLookup_cellsFrom_add (k i : Nat) (bs : List Byte) : cellLookup (cellsFrom k bs) (k + i) = bs[i]? := by
  induction bs generalizing k i with
  | nil => rfl
  | cons b bs ih =>
    cases i with
    | zero => simp [cellsFrom, cellLookup]
    | succ i =>
      have := ih (k + 1) i
      rw [show k + 1 + i = k + (i + 1) by omega] at this
      simp [cellsFrom, cellLookup, this]

/-- Keeping the cells of some keys gives these keys the byte they had, and the others none. -/
theorem cellLookup_filter (cs : List Host.Cell) (keep : Nat → Bool) (k : Nat) :
    cellLookup (cs.filter fun c => keep c.1) k = if keep k then cellLookup cs k else none := by
  induction cs with
  | nil => simp [cellLookup]
  | cons c cs ih =>
    obtain ⟨a, b⟩ := c
    by_cases hak : a = k
    · subst hak
      cases ha : keep a <;> simp_all [cellLookup]
    · cases ha : keep a <;> simp [ha, cellLookup, hak, ih]

/-- A write covers the keys of its cells. -/
theorem PendingWrite.covers_iff {w : PendingWrite} {k : Nat} : w.covers k = true ↔ ∃ c ∈ w.cells, c.1 = k := by
  unfold PendingWrite.covers
  induction w.cells with
  | nil => simp [cellLookup]
  | cons c cs ih =>
    obtain ⟨a, b⟩ := c
    by_cases hak : a = k
    · simp [cellLookup, hak]
    · simp [cellLookup, hak, ih]

/-! ### The byte that writes leave -/

/-- The byte at a key after all writes of a list, oldest first. -/
def byteAfter (k : Nat) (ws : List PendingWrite) (acc : Byte) : Byte :=
  ws.foldl (fun acc w => (cellLookup w.cells k).getD acc) acc

@[simp] theorem byteAfter_nil (k : Nat) (acc : Byte) : byteAfter k [] acc = acc := rfl

@[simp] theorem byteAfter_cons (k : Nat) (w : PendingWrite) (ws : List PendingWrite) (acc : Byte) :
    byteAfter k (w :: ws) acc = byteAfter k ws ((cellLookup w.cells k).getD acc) := rfl

theorem byteAfter_append (k : Nat) (us ws : List PendingWrite) (acc : Byte) :
    byteAfter k (us ++ ws) acc = byteAfter k ws (byteAfter k us acc) := List.foldl_append

/-- Writes that put no byte at the key change nothing there. -/
theorem byteAfter_of_uncovered {k : Nat} {ws : List PendingWrite} (h : ∀ w ∈ ws, cellLookup w.cells k = none)
    (acc : Byte) : byteAfter k ws acc = acc := by
  induction ws with
  | nil => rfl
  | cons w ws ih =>
    rw [byteAfter_cons, h w List.mem_cons_self]
    exact ih fun v hv => h v (List.mem_cons_of_mem _ hv)

/-- Behind a write that puts a byte at the key the byte before does not matter. -/
theorem byteAfter_of_covered {k : Nat} {ws : List PendingWrite} (h : ∃ w ∈ ws, w.covers k = true) (acc acc' : Byte) :
    byteAfter k ws acc = byteAfter k ws acc' := by
  induction ws generalizing acc acc' with
  | nil => simp at h
  | cons w ws ih =>
    rw [byteAfter_cons, byteAfter_cons]
    cases hw : cellLookup w.cells k with
    | some b => rfl
    | none =>
      refine ih ?_ _ _
      obtain ⟨v, hv, hc⟩ := h
      rcases List.mem_cons.mp hv with rfl | hv
      · simp [PendingWrite.covers, hw] at hc
      · exact ⟨v, hv, hc⟩

/-- The bytes depend on the cells of the writes alone. -/
theorem byteAfter_map {f : PendingWrite → PendingWrite} (hf : ∀ w, (f w).cells = w.cells) (k : Nat)
    (ws : List PendingWrite) (acc : Byte) : byteAfter k (ws.map f) acc = byteAfter k ws acc := by
  induction ws generalizing acc with
  | nil => rfl
  | cons w ws ih => simp only [List.map_cons, byteAfter_cons, hf, ih]

/-- A write of no byte does not count. -/
theorem byteAfter_filter_nonempty (k : Nat) (ws : List PendingWrite) (acc : Byte) :
    byteAfter k (ws.filter fun w => !w.cells.isEmpty) acc = byteAfter k ws acc := by
  induction ws generalizing acc with
  | nil => rfl
  | cons w ws ih =>
    cases hw : w.cells with
    | nil => simp [hw, ih, cellLookup]
    | cons c cs => simp [hw, ih]

/-- Memory after writes are committed. -/
theorem memRead_commitWrites {m : List Host.Cell} (hm : Memory.wf m = true) (ws : List PendingWrite) (k : Nat) :
    memRead (commitWrites m ws) k = byteAfter k ws (memRead m k) := by
  induction ws generalizing m with
  | nil => rfl
  | cons w ws ih =>
    show memRead (commitWrites (memWriteCells m w.cells) ws) k = _
    rw [ih (memWriteCells_wf _ _ hm), memRead_memWriteCells _ _ _ hm, byteAfter_cons]

/-! ### What a read with a mask observes (R83, R95) -/

/-- A mask with one bit for each of the first writes takes them all, and the rest of the mask is for the writes
behind them. -/
theorem observedByte_append (m : List Host.Cell) (us ws : List PendingWrite) (x k : Nat) (acc : Byte) :
    observedByte m (us ++ ws) (2 ^ us.length - 1 + 2 ^ us.length * x) k acc =
      observedByte m ws x k (byteAfter k us acc) := by
  induction us generalizing acc with
  | nil => simp
  | cons u us ih =>
    have hpos := Nat.two_pow_pos us.length
    have hmask : 2 ^ (u :: us).length - 1 + 2 ^ (u :: us).length * x =
        2 * (2 ^ us.length - 1 + 2 ^ us.length * x) + 1 := by
      rw [List.length_cons, Nat.pow_succ, Nat.mul_comm (2 ^ us.length) 2, Nat.mul_assoc]
      omega
    rw [hmask, List.cons_append, observedByte, byteAfter_cons]
    simp only [Nat.testBit_zero, Nat.mul_add_mod_self_left, Nat.mod_succ, decide_true, if_true]
    rw [show (2 * (2 ^ us.length - 1 + 2 ^ us.length * x) + 1) / 2 = 2 ^ us.length - 1 + 2 ^ us.length * x by omega]
    exact ih _

/-- A mask with one bit for each write takes them all. -/
theorem observedByte_all (m : List Host.Cell) (ws : List PendingWrite) (k : Nat) (acc : Byte) :
    observedByte m ws (2 ^ ws.length - 1) k acc = byteAfter k ws acc := by
  simpa [observedByte] using observedByte_append m ws [] 0 k acc

/-- Writes that put no byte at the key are not observed there, whatever the mask. -/
theorem observedByte_of_uncovered {ws : List PendingWrite} {k : Nat} (h : ∀ w ∈ ws, cellLookup w.cells k = none)
    (m : List Host.Cell) (mask : Nat) (acc : Byte) : observedByte m ws mask k acc = acc := by
  induction ws generalizing mask with
  | nil => rfl
  | cons w ws ih =>
    rw [observedByte, h w List.mem_cons_self]
    simpa using ih (fun v hv => h v (List.mem_cons_of_mem _ hv)) _

/-- Two reads agree that observe the same at each of their bytes. -/
theorem observedBytes_congr {m m' : List Host.Cell} {ws ws' : List PendingWrite} {mask mask' k n : Nat}
    (h : ∀ i < n, observedByte m ws mask (k + i) (memRead m (k + i)) =
      observedByte m' ws' mask' (k + i) (memRead m' (k + i))) :
    observedBytes m ws mask k n = observedBytes m' ws' mask' k n := by
  induction n generalizing k with
  | zero => rfl
  | succ n ih =>
    rw [observedBytes, observedBytes]
    congr 1
    · exact h 0 (Nat.succ_pos n)
    · refine ih fun i hi => ?_
      rw [show k + 1 + i = k + (i + 1) by omega]
      exact h (i + 1) (Nat.succ_lt_succ hi)

/-- A read gives the bytes that it observes one by one. -/
theorem observedBytes_eq {m : List Host.Cell} {ws : List PendingWrite} {mask k : Nat} {bs : List Byte}
    (h : ∀ i (hi : i < bs.length), observedByte m ws mask (k + i) (memRead m (k + i)) = bs[i]) :
    observedBytes m ws mask k bs.length = bs := by
  induction bs generalizing k with
  | nil => rfl
  | cons b bs ih =>
    rw [List.length_cons, observedBytes]
    congr 1
    · exact h 0 (Nat.succ_pos _)
    · refine ih fun i hi => ?_
      rw [show k + 1 + i = k + (i + 1) by omega]
      exact h (i + 1) (Nat.succ_lt_succ hi)

/-! ### The part of the writes that is ordered and the part that stays open (R96, R115) -/

@[simp] theorem orderedPart_nil (ord : PendingWrite → Bool) : orderedPart ord [] = [] := rfl

@[simp] theorem openPart_nil (ord : PendingWrite → Bool) : openPart ord [] = [] := rfl

theorem orderedPart_cons (ord : PendingWrite → Bool) (w : PendingWrite) (ws : List PendingWrite) :
    orderedPart ord (w :: ws) =
      { w with cells := w.cells.filter fun c => commits ord w ws c.1 } :: orderedPart ord ws := rfl

theorem openPart_cons (ord : PendingWrite → Bool) (w : PendingWrite) (ws : List PendingWrite) :
    openPart ord (w :: ws) = { w with cells := w.cells.filter fun c => keeps ord w ws c.1 } :: openPart ord ws := rfl

theorem keeps_iff {ord : PendingWrite → Bool} {w : PendingWrite} {ws : List PendingWrite} {k : Nat} :
    keeps ord w ws k = true ↔ laterOrdered ord ws k = false ∧ (w.reduced = true ∨ ord w = false) := by
  simp [keeps]

theorem commits_iff {ord : PendingWrite → Bool} {w : PendingWrite} {ws : List PendingWrite} {k : Nat} :
    commits ord w ws k = true ↔ w.reduced = false ∧ (ord w = true ∨ laterOrdered ord ws k = true) := by
  simp [commits]

theorem laterOrdered_iff {ord : PendingWrite → Bool} {ws : List PendingWrite} {k : Nat} :
    laterOrdered ord ws k = true ↔ ∃ w ∈ ws, ord w = true ∧ w.covers k = true := by
  simp [laterOrdered]

/-- Nothing is observed for certain at a key where no write that covers it is ordered. -/
theorem orderedPart_uncovered {ord : PendingWrite → Bool} {ws : List PendingWrite} {k : Nat}
    (h : laterOrdered ord ws k = false) : ∀ v ∈ orderedPart ord ws, cellLookup v.cells k = none := by
  induction ws with
  | nil => simp
  | cons w ws ih =>
    obtain ⟨hw, hws⟩ : (ord w && w.covers k) = false ∧ laterOrdered ord ws k = false := Bool.or_eq_false_iff.mp h
    intro v hv
    rw [orderedPart_cons] at hv
    rcases List.mem_cons.mp hv with rfl | hv
    · rw [cellLookup_filter]
      split
      next hc =>
        have hord : ord w = true := by simpa [hws] using (commits_iff.mp hc).2
        simpa [hord, PendingWrite.covers] using hw
      next => rfl
    · exact ih hws v hv

/-- A write that is ordered and has not the Reduced Coherence property is observed for certain, whole, where it is the
last. -/
theorem orderedPart_singleton_of_ordered {ord : PendingWrite → Bool} {w : PendingWrite} (hord : ord w = true)
    (hr : w.reduced = false) : orderedPart ord [w] = [w] := by
  have hall : w.cells.filter (fun c => commits ord w [] c.1) = w.cells :=
    List.filter_eq_self.mpr fun c _ => commits_iff.mpr ⟨hr, .inl hord⟩
  rw [orderedPart_cons, hall]
  rfl

theorem openPart_singleton_of_ordered {ord : PendingWrite → Bool} {w : PendingWrite} (hord : ord w = true)
    (hr : w.reduced = false) : openPart ord [w] = [{ w with cells := [] }] := by
  have hnone : w.cells.filter (fun c => keeps ord w [] c.1) = [] :=
    List.filter_eq_nil_iff.mpr fun c _ hk => by simpa [hr, hord] using (keeps_iff.mp hk).2
  rw [openPart_cons, hnone]
  rfl

/-- Any other write stays open, whole, where it is the last. -/
theorem openPart_singleton_of_open {ord : PendingWrite → Bool} {w : PendingWrite}
    (h : w.reduced = true ∨ ord w = false) : openPart ord [w] = [w] := by
  have hall : w.cells.filter (fun c => keeps ord w [] c.1) = w.cells :=
    List.filter_eq_self.mpr fun c _ => keeps_iff.mpr ⟨rfl, h⟩
  rw [openPart_cons, hall]
  rfl

theorem orderedPart_singleton_of_open {ord : PendingWrite → Bool} {w : PendingWrite}
    (h : w.reduced = true ∨ ord w = false) : orderedPart ord [w] = [{ w with cells := [] }] := by
  have hnone : w.cells.filter (fun c => commits ord w [] c.1) = [] :=
    List.filter_eq_nil_iff.mpr fun c _ hc => by
      obtain ⟨hr, ho | hl⟩ := commits_iff.mp hc
      · simp [hr, ho] at h
      · cases hl
  rw [orderedPart_cons, hnone]
  rfl

/-- The byte that the writes leave is what the ordered part and then the open part leave: a byte in neither part is
replaced by a later write, and one that stays open has no ordered byte behind it. -/
theorem byteAfter_openPart_orderedPart (ord : PendingWrite → Bool) (k : Nat) (ws : List PendingWrite) (acc : Byte) :
    byteAfter k (openPart ord ws) (byteAfter k (orderedPart ord ws) acc) = byteAfter k ws acc := by
  induction ws generalizing acc with
  | nil => rfl
  | cons w ws ih =>
    rw [openPart_cons, orderedPart_cons, byteAfter_cons, byteAfter_cons, byteAfter_cons, cellLookup_filter,
      cellLookup_filter]
    by_cases hk : keeps ord w ws k = true
    · obtain ⟨hlater, -⟩ := keeps_iff.mp hk
      have hcert := byteAfter_of_uncovered (orderedPart_uncovered hlater)
      rw [if_pos hk, hcert, ← ih, hcert]
      cases hw : cellLookup w.cells k with
      | some b => rfl
      | none => simp
    · rw [if_neg hk, Option.getD_none, ih]
      by_cases hc : commits ord w ws k = true
      · rw [if_pos hc]
      · have hlater : laterOrdered ord ws k = true := by
          rw [keeps_iff] at hk
          rw [commits_iff] at hc
          grind
        obtain ⟨v, hv, -, hcov⟩ := laterOrdered_iff.mp hlater
        rw [if_neg hc]
        exact byteAfter_of_covered ⟨v, hv, hcov⟩ _ _

/-- Of the open parts of the writes before a barrier no earlier one has a byte that a write of this PE puts. -/
theorem openPart_own_pairwise (ws : List PendingWrite) :
    (openPart PendingWrite.own ws).Pairwise fun v w => w.own = true → ∀ c ∈ v.cells, w.covers c.1 = false := by
  induction ws with
  | nil => exact List.Pairwise.nil
  | cons v ws ih =>
    rw [openPart_cons]
    refine List.pairwise_cons.mpr ⟨fun w hw hown c hc => ?_, ih⟩
    obtain ⟨u, hu, hwu, hcells, -⟩ := mem_openPart hw
    obtain ⟨hlater, -⟩ := keeps_iff.mp (List.mem_filter.mp hc).2
    have hu_own : u.own = true := by rwa [hwu] at hown
    rw [Bool.eq_false_iff]
    intro hcov
    obtain ⟨d, hd, hdk⟩ := PendingWrite.covers_iff.mp hcov
    have hucov : u.covers c.1 = true := PendingWrite.covers_iff.mpr ⟨d, hcells d hd, hdk⟩
    exact Bool.eq_false_iff.mp hlater (laterOrdered_iff.mpr ⟨u, hu, hu_own, hucov⟩)

/-! ### After a barrier (R96, R115) -/

/-- An explicit read sees at each byte what all pending writes leave. -/
theorem coherentBytes_congr {s t : State} {k n : Nat}
    (h : ∀ j, byteAfter j t.pendingWrites (memRead t.mem j) = byteAfter j s.pendingWrites (memRead s.mem j)) :
    coherentBytes t k n = coherentBytes s k n :=
  observedBytes_congr fun i _ => by rw [observedByte_all, observedByte_all, h]

/-- A barrier changes nothing that an explicit read sees. -/
theorem coherentBytes_settle {s : State} (hm : Memory.wf s.mem = true) (ord : PendingWrite → Bool) (k n : Nat) :
    coherentBytes (s.settle ord) k n = coherentBytes s k n := by
  refine coherentBytes_congr fun j => ?_
  rw [State.settle_mem, State.settle_pendingWrites, memRead_commitWrites hm,
    byteAfter_map (f := PendingWrite.settleBy ord) fun _ => rfl, byteAfter_filter_nonempty,
    byteAfter_openPart_orderedPart]

/-- Of the writes of this PE those alone wait after a DSB that have the Reduced Coherence property, each settled. -/
theorem settle_own_reduced {s : State} {w : PendingWrite} (h : w ∈ (s.settle PendingWrite.own).pendingWrites)
    (hown : w.own = true) : w.reduced = true ∧ w.settled = true := by
  obtain ⟨v, -, hwv, -, hne, hkept⟩ := mem_settle_pending h
  obtain ⟨c, hc⟩ := List.exists_mem_of_ne_nil _ hne
  have hv : v.own = true := by rwa [hwv] at hown
  have hkept := hkept c hc
  rw [hv, Bool.not_true, Bool.or_false] at hkept
  rw [hwv]
  exact ⟨hkept, by simp [PendingWrite.settleBy, hv]⟩

/-- Settles O32: what waits after a DSB is the open part of what waited before. -/
theorem dsbSettlesOwnWrites : Obligations.DsbSettlesOwnWrites := by
  intro s hm
  refine ⟨(s.settle PendingWrite.own).answer .none, rfl, fun w hw => settle_own_reduced hw, ?_,
    coherentBytes_settle hm PendingWrite.own⟩
  rw [State.answer_pendingWrites, State.settle_pendingWrites]
  exact List.pairwise_map.mpr ((openPart_own_pairwise s.pendingWrites).filter _)

/-! ### A descriptor read and the last write (R83, R100, R117) -/

/-- A read of the bytes of a row that a write with just these bytes puts, observed last, gives them. -/
theorem byteAfter_singleton_cellsFrom {w : PendingWrite} {k : Nat} {bs : List Byte} (hw : w.cells = cellsFrom k bs)
    {i : Nat} (hi : i < bs.length) (acc : Byte) : byteAfter (k + i) [w] acc = bs[i] := by
  simp [hw, cellLookup_cellsFrom_add, hi]

/-- Behind an ordered write without the Reduced Coherence property nothing earlier stays open where it covers. -/
theorem openPart_append_ordered_uncovered {ord : PendingWrite → Bool} {w : PendingWrite} {k : Nat}
    (hord : ord w = true) (hr : w.reduced = false) (hcov : w.covers k = true) (us : List PendingWrite) :
    ∀ v ∈ openPart ord (us ++ [w]), cellLookup v.cells k = none := by
  induction us with
  | nil =>
    rw [List.nil_append, openPart_singleton_of_ordered hord hr]
    simp [cellLookup]
  | cons u us ih =>
    have hlater : laterOrdered ord (us ++ [w]) k = true := laterOrdered_iff.mpr ⟨w, by simp, hord, hcov⟩
    intro v hv
    rcases List.mem_cons.mp hv with rfl | hv
    · rw [cellLookup_filter, if_neg]
      exact fun hk => Bool.eq_false_iff.mp (keeps_iff.mp hk).1 hlater
    · exact ih v hv

/-- Such a write at the end is the end of the ordered part, whole. -/
theorem orderedPart_append_ordered {ord : PendingWrite → Bool} {w : PendingWrite} (hord : ord w = true)
    (hr : w.reduced = false) (us : List PendingWrite) : ∃ vs, orderedPart ord (us ++ [w]) = vs ++ [w] := by
  induction us with
  | nil => exact ⟨[], orderedPart_singleton_of_ordered hord hr⟩
  | cons u us ih =>
    obtain ⟨vs, hvs⟩ := ih
    exact ⟨_ :: vs, by rw [List.cons_append, orderedPart_cons, hvs]; rfl⟩

/-- What a walk reads of the writes to its bytes: the ordered part, and of the open part those in the mask. -/
def walkBytes (m : List Host.Cell) (ord : PendingWrite → Bool) (ws : List PendingWrite) (mask k n : Nat) : List Byte :=
  observedBytes m (orderedPart ord ws ++ openPart ord ws)
    (2 ^ (orderedPart ord ws).length - 1 + 2 ^ (orderedPart ord ws).length * mask) k n

/-- The bytes of a descriptor read are so read of the pending writes to them, with some mask. -/
theorem readBytes_eq_walkBytes (s : State) (pt : ChoicePoint) (force mayIgnore : Bool) (k n : Nat) :
    ∃ mask, readBytes s pt force mayIgnore k n =
      walkBytes s.mem (PendingWrite.beforeRead force mayIgnore)
        ((s.pendingWrites.filter fun w => w.overlaps k n).map (PendingWrite.forWalk mayIgnore)) mask k n := ⟨_, rfl⟩

/-- A read of the bytes that the last write puts gives them, where that write is ordered before it and has not the
Reduced Coherence property. -/
theorem walkBytes_of_last_ordered {ord : PendingWrite → Bool} {w : PendingWrite} {k : Nat} {bs : List Byte}
    (hord : ord w = true) (hr : w.reduced = false) (hw : w.cells = cellsFrom k bs) (m : List Host.Cell)
    (us : List PendingWrite) (mask : Nat) : walkBytes m ord (us ++ [w]) mask k bs.length = bs := by
  refine observedBytes_eq fun i hi => ?_
  have hcov : w.covers (k + i) = true := by simp [PendingWrite.covers, hw, cellLookup_cellsFrom_add, hi]
  obtain ⟨vs, hvs⟩ := orderedPart_append_ordered hord hr us
  rw [observedByte_append, observedByte_of_uncovered (openPart_append_ordered_uncovered hord hr hcov us), hvs,
    byteAfter_append, byteAfter_singleton_cellsFrom hw hi]

/-- Where the only write is not so ordered it stays open whole, and the read observes it or not. -/
theorem walkBytes_of_one_open {ord : PendingWrite → Bool} {w : PendingWrite} {k : Nat} {bs : List Byte}
    (h : w.reduced = true ∨ ord w = false) (hw : w.cells = cellsFrom k bs) (m : List Host.Cell) (mask : Nat) :
    walkBytes m ord [w] mask k bs.length = bs ∨
      walkBytes m ord [w] mask k bs.length = observedBytes m [] 0 k bs.length := by
  unfold walkBytes
  rw [openPart_singleton_of_open h, orderedPart_singleton_of_open h]
  cases hbit : mask.testBit 0 with
  | true =>
    refine .inl (observedBytes_eq fun i hi => ?_)
    rw [observedByte_append, observedByte, hbit]
    simp [observedByte, hw, cellLookup_cellsFrom_add, hi]
  | false =>
    refine .inr (observedBytes_congr fun i _ => ?_)
    rw [observedByte_append]
    simp [observedByte, hbit, cellLookup]

/-- A write of the bytes of a row puts one of them. -/
theorem overlaps_of_cellsFrom {w : PendingWrite} {k : Nat} {bs : List Byte} (hw : w.cells = cellsFrom k bs)
    (hne : bs ≠ []) : w.overlaps k bs.length = true := by
  cases bs with
  | nil => exact absurd rfl hne
  | cons b bs => simp [PendingWrite.overlaps, hw, cellsFrom]

/-- Settles O36: the last write is the end of the ordered part, and nothing stays open where it covers. -/
theorem orderedReadSeesTheLastWrite : Obligations.OrderedReadSeesTheLastWrite := by
  intro s ws w bs pt force mayIgnore ee sp pa hpend hord hred hne hw hx
  have hord' : PendingWrite.beforeRead force mayIgnore (w.forWalk mayIgnore) = true := by
    simp only [PendingWrite.beforeRead, PendingWrite.etsOrdered, PendingWrite.forWalk]
    rcases hord with ⟨hf, ⟨ho, hs⟩ | hb⟩ | ⟨hi, hs⟩ <;> simp [*]
  have hred' : (w.forWalk mayIgnore).reduced = false := by
    rcases hred with h | h <;> simp [PendingWrite.forWalk, h]
  obtain ⟨mask, hread⟩ := readBytes_eq_walkBytes s pt force mayIgnore (memKey sp pa) bs.length
  rw [hpend, List.filter_append, List.filter_singleton, overlaps_of_cellsFrom hw hne, List.map_append] at hread
  rw [ttdRead, if_pos hx, hread]
  exact congrArg (fun x => Res.ok (BitVec.ofNat 128 (valueOfBytes ee x))) (walkBytes_of_last_ordered hord' hred' hw ..)

/-- Settles O34: the one write is ordered before the read, so that the read gives it, or it stays open whole, so that
the read observes all of it or nothing. -/
theorem descriptorReadIsOldOrNew : Obligations.DescriptorReadIsOldOrNew := by
  intro s w bs pt force mayIgnore ee sp pa hpend hw hx
  have hread : readBytes s pt force mayIgnore (memKey sp pa) bs.length = bs ∨
      readBytes s pt force mayIgnore (memKey sp pa) bs.length = observedBytes s.mem [] 0 (memKey sp pa) bs.length := by
    obtain ⟨mask, hread⟩ := readBytes_eq_walkBytes s pt force mayIgnore (memKey sp pa) bs.length
    rw [hread, hpend, List.filter_singleton]
    cases w.overlaps (memKey sp pa) bs.length with
    | false => exact .inr (observedBytes_congr fun _ _ => rfl)
    | true =>
      by_cases hopen : (w.forWalk mayIgnore).reduced = true ∨
          PendingWrite.beforeRead force mayIgnore (w.forWalk mayIgnore) = false
      · exact walkBytes_of_one_open hopen hw _ _
      · obtain ⟨hr, ho⟩ : (w.forWalk mayIgnore).reduced = false ∧
            PendingWrite.beforeRead force mayIgnore (w.forWalk mayIgnore) = true := by simpa using hopen
        exact .inl (walkBytes_of_last_ordered ho hr hw _ [] _)
  rw [ttdRead, if_pos hx]
  rcases hread with h | h <;> rw [h]
  · exact .inl rfl
  · exact .inr rfl

end Sys2Proof.Machine

/-! SUPPORT. An aligned store and an RCW or RCWS update, and the pending write that each leaves (spec/20_memory.md R82,
R95, R96, R113 to R117; 41_hardening.md R226, R235), and the statements O33 and O40. -/

namespace Sys2Proof.Machine

/-! ### An aligned access (R13, R512) -/

/-- An aligned access is made in one part. -/
theorem accessPieces_of_aligned {s : State} {a : ExplicitAccess} (h : a.aligned = true) :
    accessPieces s a = [(0, a.bytes)] := if_pos h

/-- It gives no Alignment fault. -/
theorem judge_of_aligned {s : State} {a : ExplicitAccess} {kind : AccessKind} (h : a.aligned = true) :
    a.judge s kind = fun _ => none := by
  funext t
  simp [ExplicitAccess.judge, h]

/-- Its part is placed by the translation of its address. -/
theorem accessPart_of_aligned {s : State} {a : ExplicitAccess} {kind : AccessKind} {n : Nat} {q : Request}
    (h : a.aligned = true)
    (hq : contextRequest s (regsView s .explicit) (dataAccess s a kind) a.va .explicit = some q) :
    accessPart s a kind 0 n = partPlace s (translateAddress s q) 0 n := by
  unfold accessPart
  rw [BitVec.add_zero, hq, judge_of_aligned h]
  rfl

/-- The place of a part whose translation succeeds: it exists, or the access stops or is refused. -/
theorem partPlace_of_ok {s : State} {x : Traced TransOk} {t : TransOk} (o n : Nat) (hx : x.2 = .ok t) :
    (physExists s.launch t.space t.oa n = true ∧
      (partPlace s x o n).2 = .ok ⟨o, memKey t.space t.oa, n, t.attrs⟩) ∨
    (∃ f, (partPlace s x o n).2 = .stop f) ∨ ∃ f, (partPlace s x o n).2 = .refuse f := by
  unfold partPlace
  rw [Traced.bind_of_ok hx, Traced.pure_snd]
  split
  next => exact .inr (.inl ⟨_, rfl⟩)
  next hphys =>
    split
    next => exact .inr (.inr ⟨_, rfl⟩)
    next => exact .inl ⟨by simpa using hphys, rfl⟩

/-- An aligned access that completes, whose address translates, is made there, whole. -/
theorem doAccess_of_aligned {s t : State} {a : ExplicitAccess} {data : AccessData} {answer : List AccessPart → Output}
    {q : Request} {o : TransOk} (hal : a.aligned = true)
    (hq : contextRequest s (regsView s .explicit) (dataAccess s a data.kind) a.va .explicit = some q)
    (ho : (translateAddress s q).2 = .ok o) (h : doAccess s a data answer = .next t) :
    physExists s.launch o.space o.oa a.bytes = true ∧
    ∃ notes out, t =
      (s.makeParts a.simd data ⟨notes, [⟨0, memKey o.space o.oa, a.bytes, o.attrs⟩]⟩).answer out := by
  have hpart : accessPart (s.makeParts true data ⟨[], []⟩) a data.kind 0 a.bytes =
      partPlace s (translateAddress s q) 0 a.bytes := accessPart_of_aligned hal hq
  unfold doAccess at h
  rw [accessPieces_of_aligned hal] at h
  dsimp only [accessLoop] at h
  rw [hpart] at h
  rcases partPlace_of_ok (s := s) 0 a.bytes ho with ⟨hphys, hp⟩ | ⟨f, hp⟩ | ⟨f, hp⟩ <;> rw [hp] at h
  · exact ⟨hphys, _, _, (next_inj h).symm⟩
  · cases h
  · cases h

/-! ### A store and a DSB (R96) -/

/-- The little-endian value of the bytes of a value is the value, cut to their number. -/
theorem littleEndian_bytesOfValue (n v : Nat) : littleEndian (bytesOfValue n v) = v % 256 ^ n := by
  induction n generalizing v with
  | zero => simp [bytesOfValue, littleEndian, Nat.mod_one]
  | succ n ih =>
    rw [bytesOfValue, littleEndian, ih, BitVec.toNat_ofNat, show 256 ^ (n + 1) = 256 * 256 ^ n from Nat.pow_succ',
      Nat.mod_mul]

/-- A store leaves one write, of its bytes, pending (R95). -/
theorem doWrite_of_aligned {s t : State} {a : ExplicitAccess} {v : BitVec 128} {q : Request} {o : TransOk}
    (hal : a.aligned = true)
    (hq : contextRequest s (regsView s .explicit) (dataAccess s a .write) a.va .explicit = some q)
    (ho : (translateAddress s q).2 = .ok o) (h : applyEvent s (.memWrite a v) = .next t) :
    physExists s.launch o.space o.oa a.bytes = true ∧ t.launch = s.launch ∧ t.mem = s.mem ∧
    ∃ w, t.pendingWrites = s.pendingWrites ++ [w] ∧ w.own = true ∧ w.reduced = false ∧
      w.cells = cellsFrom (memKey o.space o.oa) (bytesOfValue a.bytes v.toNat) := by
  unfold applyEvent doWrite at h
  obtain ⟨hphys, notes, out, rfl⟩ := doAccess_of_aligned (data := .store _) hal hq ho h
  refine ⟨hphys, by simp, rfl, _, rfl, rfl, rfl, ?_⟩
  rw [List.drop_zero, List.take_of_length_le (by simp)]

/-- A DSB with one write waiting, of this PE and without the Reduced Coherence property, puts it into memory. -/
theorem settle_own_singleton {s : State} {w : PendingWrite} (hpend : s.pendingWrites = [w]) (hown : w.own = true)
    (hr : w.reduced = false) :
    (s.settle PendingWrite.own).pendingWrites = [] ∧
      (s.settle PendingWrite.own).mem = memWriteCells s.mem w.cells := by
  rw [State.settle_pendingWrites, State.settle_mem, hpend, openPart_singleton_of_ordered hown hr,
    orderedPart_singleton_of_ordered hown hr]
  exact ⟨rfl, rfl⟩

/-- The bytes just written to memory are read back. -/
theorem observedBytes_memWriteCells {m : List Host.Cell} (hm : Memory.wf m = true) (k : Nat) (bs : List Byte) :
    observedBytes (memWriteCells m (cellsFrom k bs)) [] 0 k bs.length = bs := by
  refine observedBytes_eq fun i hi => ?_
  rw [observedByte, memRead_memWriteCells _ _ _ hm, cellLookup_cellsFrom_add]
  simp [hi]

/-- Settles O33: the store leaves one write, the DSB puts it into memory, and with nothing waiting the walker reads
memory. -/
theorem storeThenDsbIsObserved : Obligations.StoreThenDsbIsObserved := by
  intro s t u a v q o pt force mayIgnore hm hnone hsize hva hq ho hstore hdsb
  have hbytes : a.bytes = 8 := by simp [ExplicitAccess.bytes, hsize]
  have hal : a.aligned = true := by simp [ExplicitAccess.aligned, hbytes, hva]
  obtain ⟨hphys, hlaunch, hmem, w, hpend, hown, hr, hcells⟩ := doWrite_of_aligned hal hq ho hstore
  obtain ⟨hsettled, hsmem⟩ := settle_own_singleton (s := t) (by rw [hpend, hnone]; rfl) hown hr
  obtain rfl := next_inj hdsb
  rw [hbytes] at hphys hcells
  have hlen : (bytesOfValue 8 v.toNat).length = 8 := bytesOfValue_length ..
  have hread : observedBytes (t.settle PendingWrite.own).mem [] 0 (memKey o.space o.oa) 8 = bytesOfValue 8 v.toNat := by
    have := observedBytes_memWriteCells hm (memKey o.space o.oa) (bytesOfValue 8 v.toNat)
    rwa [hlen, ← hcells, ← hmem, ← hsmem] at this
  rw [ttdRead_of_no_pending ((t.settle PendingWrite.own).answer .none) _ _ _ _ _ _ _ hsettled
    (by simpa [hlaunch] using hphys), State.answer_mem, hread, valueOfBytes, if_neg Bool.false_ne_true,
    littleEndian_bytesOfValue]
  rfl

/-! ### The write of an RCW or RCWS update (R113, R226) -/

/-- PTTWI is 1 only where no bit of it is read-only 0 (R117). -/
theorem pttwiWritable_of_pttwiOf {l : Launch} {r : SysRegs} {g : Regime} {ss : SecState} (h : pttwiOf l r g ss = true) :
    pttwiWritable l r g ss = true := by
  unfold pttwiOf at h
  unfold pttwiWritable
  cases g <;> grind

/-- With nothing cached an RCWS write uses the PTTWI of its regime. -/
theorem pttwiUsed_of_empty_tlb {s : State} (h : s.tlb = []) (r : SysRegs) (g : Regime) (ss : SecState) :
    pttwiUsed s r g ss = pttwiOf s.launch r g ss := by
  rw [pttwiUsed, h, List.filter_nil, List.map_nil, pick_nil]
  cases hp : pttwiOf s.launch r g ss with
  | true => rw [pttwiWritable_of_pttwiOf hp, Bool.and_true]
  | false => rw [Bool.and_false]

/-- An update that is made marks the writes it read and adds its own, of Reduced Coherence where it is an RCWS that
uses PTTWI 1. -/
theorem doRcw_updated {s t : State} {sw wide : Bool} {sp : Space} {slot : Nat} {new : Raw} {attrs : Attrs}
    {ss : SecState} (hss : stateAt s.launch (regsView s .explicit) s.el = some ss)
    (h : doRcw s sw wide sp slot new attrs = .next t) (hout : t.output = .rcwUpdated true) :
    ∃ w, t.pendingWrites = markRead (memKey sp (slot * rcwBytes wide)) (rcwBytes wide) s.pendingWrites ++ [w] ∧
      w.reduced =
        (sw && pttwiUsed s (regsView s .explicit) (regimeOf (regsView s .explicit) ss s.el) ss) := by
  unfold doRcw at h
  split at h
  next => cases h
  next =>
    dsimp only at h
    rw [hss] at h
    dsimp only at h
    split at h
    next => cases h
    next =>
      split at h
      next => cases h
      next =>
        split at h
        next => cases h; exact ⟨_, rfl, rfl⟩
        next => cases h; cases hout

/-- Settles O40: the write that an update adds says whether the instruction is an RCWS and uses PTTWI 1, and with an
empty TLB it uses that of the regime. -/
theorem reducedCoherenceNeedsRcwsAndPttwi : Obligations.ReducedCoherenceNeedsRcwsAndPttwi := by
  rintro s t sw wide sp slot new attrs ss r htlb rfl hss h hout
  obtain ⟨w, hpend, hr⟩ := doRcw_updated hss h hout
  refine ⟨w, hpend, ?_⟩
  rw [hr, pttwiUsed_of_empty_tlb htlb, Bool.and_eq_true]

end Sys2Proof.Machine

/-! SUPPORT. A translation for a Security state reads memory in the PA spaces visible to that state alone
(spec/20_memory.md R104 to R112; 40_walk_generic.md R169, R176 to R178; 47_at_instructions.md R471), and the statement
O22. -/

namespace Sys2Proof.Machine

/-! ### The spaces that a walk reaches (R104 to R112, R169) -/

theorem visible_space (ss : SecState) : Visible ss ss.space := by cases ss <;> simp [Visible, SecState.space]

/-- Stage 2 lookups are in a visible space, whatever SW and NSW hold (R104, R108, R111). -/
theorem visible_lookupSpace2 (r : SysRegs) (ss : SecState) (ipaSpace : Space) :
    Visible ss (lookupSpace2 r ss ipaSpace) := by
  cases ss with
  | secure => simp only [Visible, lookupSpace2]; split <;> split <;> simp
  | nonSecure => rfl
  | realm => exact .inl rfl
  | root => rfl

/-- A Table descriptor keeps a walk in visible spaces, wherever it was read (R106). -/
theorem visible_nextSpace {c : WalkCfg} (h : Visible c.ss c.lookupSpace) (p : WalkPos) (t : TableDesc) :
    Visible c.ss (nextSpace c p t) := by
  unfold nextSpace
  cases hss : c.ss with
  | secure =>
    cases c.stage with
    | s1 => simp only [Visible]; split <;> simp
    | s2 => rwa [hss] at h
  | nonSecure => rfl
  | realm => exact .inl rfl
  | root => rfl

/-- A stage of any state but Root gives a visible space (R169). -/
theorem visible_outputSpace {c : WalkCfg} (h : c.ss ≠ .root) (asked : Space) : Visible c.ss (outputSpace c asked) := by
  unfold outputSpace
  cases hss : c.ss with
  | secure => cases c.stage <;> simp only [Visible] <;> split <;> simp
  | nonSecure => rfl
  | realm =>
    by_cases hasked : asked = .nonSecure <;> cases c.stage <;> cases c.tableIsIpa <;> simp [Visible, hasked]
  | root => exact absurd hss h

/-- The walk goes on, or ends, in a space visible to the state. The output of a walk for Root is left out: it may be in
any space. -/
def WalkStep.StaysVisible (ss : SecState) : WalkStep → Prop
  | .go p => Visible ss p.space
  | .done r => ss ≠ .root → Visible ss r.space

theorem leafStep_staysVisible {c : WalkCfg} {p : WalkPos} {d : LeafDesc} {ia : Nat} {x : WalkStep}
    (h : leafStep c p d ia = .ok x) : x.StaysVisible c.ss := by
  unfold leafStep at h
  split at h
  next => cases h; exact fun hne => visible_outputSpace hne _
  next =>
    split at h
    next => cases h
    next => cases h; exact fun hne => visible_outputSpace hne _

/-- A Table descriptor ends no walk. -/
theorem descStep_table_ne_done {c : WalkCfg} {p : WalkPos} {t : TableDesc} {mro : Bool} {ia : Nat} {r : StageOk} :
    descStep c p (.table t) mro ia ≠ .ok (.done r) := by
  intro h
  unfold descStep v8Table v9Table at h
  grind

/-- The use of a descriptor. -/
theorem descStep_staysVisible {c : WalkCfg} {p : WalkPos} {d : Desc} {mro : Bool} {ia : Nat} {x : WalkStep}
    (hc : Visible c.ss c.lookupSpace) (h : descStep c p d mro ia = .ok x) : x.StaysVisible c.ss := by
  cases x with
  | go p' =>
    obtain ⟨t, rfl, -⟩ := descStep_go h
    show Visible c.ss p'.space
    exact descStep_table_space h ▸ visible_nextSpace hc p t
  | done r =>
    cases d with
    | invalid => cases h
    | table t => exact absurd h descStep_table_ne_done
    | block b =>
      unfold descStep at h
      dsimp only at h
      split at h
      next => exact leafStep_staysVisible h
      next => cases h
    | page g =>
      unfold descStep at h
      dsimp only at h
      split at h
      next => exact leafStep_staysVisible h
      next => cases h

/-- An open point ends the walk in a space that the stage may give. -/
theorem openPoint_staysVisible {s : State} {pt : OpenPoint} {c : WalkCfg} {assured : Bool} {ia : Nat} {x : WalkStep}
    (h : openPoint s pt c assured ia = .ok x) : x.StaysVisible c.ss := by
  unfold openPoint at h
  split at h
  next => cases h
  next => cases h
  next =>
    split at h
    next => cases h
    next => cases h; exact fun hne => visible_outputSpace hne _

/-- The start of a walk leads to no result but that of an open point. -/
theorem startWalk_done {s : State} {c : WalkCfg} {assured : Bool} {ia : Nat} {r : StageOk}
    (h : startWalk s c assured ia = .ok (.done r)) : ∃ pt, openPoint s pt c assured ia = .ok (.done r) := by
  have h8 : ∀ l, v8Begin c assured l ia ≠ .ok (.done r) := by
    intro l hl
    unfold v8Begin at hl
    split at hl <;> cases hl
  have h9 : ∀ l, v9Begin c assured l ia ≠ .ok (.done r) := by
    intro l hl
    unfold v9Begin at hl
    dsimp only at hl
    split at hl <;> cases hl
  unfold startWalk at h
  grind

/-- The start of a walk. -/
theorem startWalk_staysVisible {s : State} {c : WalkCfg} {assured : Bool} {ia : Nat} {x : WalkStep}
    (hc : Visible c.ss c.lookupSpace) (h : startWalk s c assured ia = .ok x) : x.StaysVisible c.ss := by
  cases x with
  | go p =>
    show Visible c.ss p.space
    exact startWalk_space h ▸ hc
  | done r =>
    obtain ⟨pt, hpt⟩ := startWalk_done h
    exact openPoint_staysVisible hpt

/-- The use of a TLB entry that answers: the entry is one of the same Security state (R71). -/
theorem TlbEntry.use_staysVisible {t : TlbEntry} {c : WalkCfg} {ia : Nat} {x : WalkStep}
    (hc : Visible c.ss c.lookupSpace) (ht : t.answers c ia = true) (h : t.use c ia = .ok x) : x.StaysVisible c.ss := by
  have hss : t.cfg.ss = c.ss := by simp_all [TlbEntry.answers]
  have hhit : Visible (hitCfg c t).ss (hitCfg c t).lookupSpace := show Visible t.cfg.ss c.lookupSpace from hss ▸ hc
  exact hss ▸ descStep_staysVisible (c := hitCfg c t) hhit h

/-- The result of a walk. -/
theorem walkLoop_visible {e : WalkEnv} {c : WalkCfg} {place : WalkPos → Traced DescPlace} {ia n : Nat} {p : WalkPos}
    {r : StageOk} (hne : c.ss ≠ .root) (hc : Visible c.ss c.lookupSpace) (h : (walkLoop e c place ia n p).2 = .ok r) :
    Visible c.ss r.space := by
  induction n generalizing p with
  | zero => cases h
  | succ n ih =>
    obtain ⟨at_, d, -, -, ⟨p', -, hloop⟩ | hdone⟩ := walkLoop_ok_succ h
    · exact ih hloop
    · exact descStep_staysVisible hc hdone hne

theorem walkFrom_visible {e : WalkEnv} {c : WalkCfg} {place : WalkPos → Traced DescPlace} {ia : Nat}
    {x : Res WalkStep} {r : StageOk} (hne : c.ss ≠ .root) (hc : Visible c.ss c.lookupSpace)
    (hx : ∀ y, x = .ok y → y.StaysVisible c.ss) (h : (walkFrom e c place ia x).2 = .ok r) : Visible c.ss r.space := by
  obtain ⟨y, hy, h⟩ := Traced.bind_ok.mp h
  cases y with
  | go p => exact walkLoop_visible hne hc h
  | done r' => cases h; exact hx _ hy hne

/-- The result of a stage (R169). -/
theorem runStage_visible {e : WalkEnv} {c : WalkCfg} {place : WalkPos → Traced DescPlace} {ia : Nat}
    {assured epd : Bool} {r : StageOk} (hne : c.ss ≠ .root) (hc : Visible c.ss c.lookupSpace)
    (h : (runStage e c place ia assured epd).2 = .ok r) : Visible c.ss r.space := by
  rcases runStage_cases e c place ia assured epd with hr | hr | ⟨t, -, ht, -, hr⟩ <;> rw [hr] at h
  · cases h
  · exact walkFrom_visible hne hc (fun _ => startWalk_staysVisible hc) h
  · exact walkFrom_visible (c := resumeCfg c t) hne hc (fun _ => TlbEntry.use_staysVisible hc ht) h

/-- The result of stage 2. -/
theorem stage2_visible {e : WalkEnv} {ss : SecState} {use : S2Use} {ipa : Nat} {sp : Space} {d : StageOk}
    (hne : ss ≠ .root) (h : (stage2 e ss use ipa sp).2 = .ok d) : Visible ss d.space :=
  runStage_visible (c := stage2Cfg e.s.launch e.regs ss sp) hne (visible_lookupSpace2 ..) (stage2_ok.mp h).1

/-! ### What another memory changes (R22, R82) -/

/-- Continued parts agree whose two parts do. -/
theorem Traced.bind_congr {α β : Type} {x x' : Traced α} {f f' : α → Traced β} (hx : x' = x)
    (hf : ∀ a, x.2 = .ok a → f' a = f a) : x'.bind f' = x.bind f := by
  subst hx
  unfold Traced.bind
  cases h : x'.2 with
  | ok a => simp only [hf a h]
  | mmu e => rfl
  | stop e => rfl
  | refuse e => rfl

/-- What reads observe of pending writes does not depend on memory but through the byte read there. -/
theorem observedByte_mem (m m' : List Host.Cell) (ws : List PendingWrite) (mask k : Nat) (acc : Byte) :
    observedByte m' ws mask k acc = observedByte m ws mask k acc := by
  induction ws generalizing mask acc with
  | nil => rfl
  | cons w ws ih => exact ih _ _

/-- A descriptor read in a visible space gives the same in memories that agree there. -/
theorem ttdRead_withMem {s : State} {ss : SecState} {m : List Host.Cell} (hagree : AgreeOn ss s.mem m) {sp : Space}
    (hsp : Visible ss sp) (pt : ChoicePoint) (force mayIgnore : Bool) (pa n : Nat) (ee : Bool) :
    ttdRead (s.withMem m) pt force mayIgnore sp pa n ee = ttdRead s pt force mayIgnore sp pa n ee := by
  unfold ttdRead
  rw [State.withMem_launch]
  split
  next hx =>
    have hpa : pa + n ≤ 2 ^ 56 := by
      simp only [physExists, Bool.and_eq_true, decide_eq_true_eq] at hx
      exact hx.2.trans (Nat.pow_le_pow_right (by norm_num) (Nat.min_le_right _ _))
    have hread : readBytes (s.withMem m) pt force mayIgnore (memKey sp pa) n =
        readBytes s pt force mayIgnore (memKey sp pa) n := by
      refine observedBytes_congr fun i hi => ?_
      have hbyte := hagree sp (pa + i) hsp (by omega)
      rw [show memKey sp (pa + i) = memKey sp pa + i from (Nat.add_assoc _ _ _).symm] at hbyte
      rw [State.withMem_mem, ← hbyte]
      exact observedByte_mem _ _ _ _ _ _
    rw [hread]
  next => rfl

/-- The lookups of a walk with another memory. -/
def WalkEnv.withMem (e : WalkEnv) (m : List Host.Cell) : WalkEnv := { e with s := e.s.withMem m }

/-- Two ways to find descriptors agree on the positions in visible spaces, and find them in visible spaces. -/
def PlacesAgree (ss : SecState) (place' place : WalkPos → Traced DescPlace) : Prop :=
  ∀ p, Visible ss p.space → place' p = place p ∧ ∀ at_, (place p).2 = .ok at_ → Visible ss at_.space

/-- Without stage 2 a descriptor is found at its own address. -/
theorem placesAgree_placeOf (ss : SecState) : PlacesAgree ss placeOf placeOf := by
  intro p hp
  refine ⟨rfl, fun at_ h => ?_⟩
  cases h
  exact hp

theorem usableEntries_withMem (s : State) (m : List Host.Cell) (pp : Purpose) (c : WalkCfg) (ia : Nat) (epd : Bool) :
    usableEntries (s.withMem m) pp c ia epd = usableEntries s pp c ia epd := rfl

theorem startWalk_withMem (s : State) (m : List Host.Cell) (c : WalkCfg) (assured : Bool) (ia : Nat) :
    startWalk (s.withMem m) c assured ia = startWalk s c assured ia := rfl

/-- An entry of the TLB that a stage uses answers its input address. -/
theorem answers_of_pick_usable {s : State} {pp : Purpose} {c : WalkCfg} {ia n : Nat} {epd : Bool} {pt : ChoicePoint}
    {t : TlbEntry} (h : pick n pt none ((usableEntries s pp c ia epd).map some) = some t) : t.answers c ia = true := by
  have hmem : some t ∈ none :: (usableEntries s pp c ia epd).map some := h ▸ pick_mem ..
  have ht : t ∈ usableEntries s pp c ia epd := by simpa using hmem
  unfold usableEntries at ht
  split at ht
  next => simp at ht
  next => simp_all

section
variable {ss : SecState} {e : WalkEnv} {m : List Host.Cell} (hagree : AgreeOn ss e.s.mem m)
include hagree

/-- One lookup in a visible space. -/
theorem lookup_withMem {c : WalkCfg} {p : WalkPos} {at_ : DescPlace} {ia : Nat} (hat : Visible ss at_.space) :
    lookup (e.withMem m) c p at_ ia = lookup e c p at_ ia := by
  unfold lookup
  exact if_congr Iff.rfl rfl (congrArg (Res.bind · _) (ttdRead_withMem hagree hat ..))

variable {c : WalkCfg} {place' place : WalkPos → Traced DescPlace} {ia : Nat} (hss : c.ss = ss)
  (hc : Visible ss c.lookupSpace) (hplace : PlacesAgree ss place' place)
include hss hc hplace

/-- The lookups of a stage from a position in a visible space on. -/
theorem walkLoop_withMem {n : Nat} {p : WalkPos} (hp : Visible ss p.space) :
    walkLoop (e.withMem m) c place' ia n p = walkLoop e c place ia n p := by
  subst hss
  induction n generalizing p with
  | zero => rfl
  | succ n ih =>
    obtain ⟨hsame, hat⟩ := hplace p hp
    refine Traced.bind_congr hsame fun at_ ha => ?_
    refine Traced.bind_congr (congrArg Traced.pure (lookup_withMem hagree (hat at_ ha))) fun d _ => ?_
    refine Traced.bind_congr rfl fun x hx => ?_
    cases x with
    | go p' => exact ih (descStep_staysVisible hc hx)
    | done r => rfl

theorem walkFrom_withMem {x : Res WalkStep} (hx : ∀ y, x = .ok y → y.StaysVisible ss) :
    walkFrom (e.withMem m) c place' ia x = walkFrom e c place ia x := by
  refine Traced.bind_congr rfl fun y hy => ?_
  cases y with
  | go p => exact walkLoop_withMem hagree hss hc hplace (hx _ hy)
  | done r => rfl

/-- One stage: the choice between the entries of the TLB and a walk is the same. -/
theorem runStage_withMem {assured epd : Bool} :
    runStage (e.withMem m) c place' ia assured epd = runStage e c place ia assured epd := by
  have hss' := hss
  subst hss'
  unfold runStage
  dsimp only [WalkEnv.withMem]
  rw [State.withMem_draws, usableEntries_withMem, startWalk_withMem]
  cases hx : pick e.s.draws (.tlb e.purpose c.stage ia e.ctx) none
      ((usableEntries e.s e.purpose c ia epd).map some) with
  | none =>
    dsimp only
    split
    next => rfl
    next => exact walkFrom_withMem hagree rfl hc hplace fun _ => startWalk_staysVisible hc
  | some t =>
    exact walkFrom_withMem (c := resumeCfg c t) hagree rfl hc hplace fun _ =>
      TlbEntry.use_staysVisible hc (answers_of_pick_usable hx)

end

/-- Stage 2 of an address. -/
theorem stage2_withMem {ss : SecState} {e : WalkEnv} {m : List Host.Cell} (hagree : AgreeOn ss e.s.mem m) (use : S2Use)
    (ipa : Nat) (sp : Space) : stage2 (e.withMem m) ss use ipa sp = stage2 e ss use ipa sp :=
  Traced.bind_congr (runStage_withMem (c := stage2Cfg e.s.launch e.regs ss sp) hagree rfl (visible_lookupSpace2 ..)
    (placesAgree_placeOf ss)) fun _ _ => rfl

/-- The descriptors of a stage 1 walk are found in visible spaces: flat mapped, or by a stage 2 (R176 to R178, R430). -/
theorem placesAgree_stage1Place {e : WalkEnv} {c : WalkCfg} {m : List Host.Cell} (hagree : AgreeOn c.ss e.s.mem m)
    (hipa : c.tableIsIpa = true → c.ss ≠ .root) :
    PlacesAgree c.ss (stage1Place (e.withMem m) c) (stage1Place e c) := by
  intro p hp
  unfold stage1Place
  by_cases h : (c.tableIsIpa && vmEffective e.s.launch e.regs c.ss) = true
  · have h' : (c.tableIsIpa && vmEffective (e.withMem m).s.launch (e.withMem m).regs c.ss) = true := h
    rw [if_pos h, if_pos h']
    refine ⟨Traced.bind_congr (stage2_withMem (e := { e with ctx := p.level }) hagree ..) fun _ _ => rfl, ?_⟩
    intro at_ hat
    obtain ⟨d, hd, hat⟩ := Traced.bind_ok.mp hat
    obtain ⟨-, -, hat⟩ := Traced.bind_ok.mp hat
    cases hat
    exact stage2_visible (hipa (Bool.and_eq_true_iff.mp h).1) hd
  · have h' : ¬(c.tableIsIpa && vmEffective (e.withMem m).s.launch (e.withMem m).regs c.ss) = true := h
    rw [if_neg h, if_neg h']
    exact placesAgree_placeOf c.ss p hp

/-! ### A translation with another memory (R160, R471) -/

/-- There is no stage 2 for Root (R112, R420). -/
theorem hasStage2_root (l : Launch) (r : SysRegs) (g : Regime) : hasStage2 l r g .root = false := by
  simp [hasStage2, el2Enabled]

/-- The descriptor addresses of a regime are IPAs only in a state that is not Root. -/
theorem stage1Cfg_tableIsIpa_ne_root {l : Launch} {r : SysRegs} {g : Regime} {ss : SecState} {upper : Bool}
    (h : (stage1Cfg l r g ss upper).tableIsIpa = true) : ss ≠ .root := by
  rintro rfl
  have hstage2 : hasStage2 l r g .root = true := h
  rw [hasStage2_root] at hstage2
  cases hstage2

section
variable {s : State} {q : Request} {m : List Host.Cell} (hagree : AgreeOn q.ss s.mem m)
include hagree

theorem stage1Walk_withMem (r : SysRegs) (force : Bool) :
    stage1Walk (s.withMem m) r force q = stage1Walk s r force q :=
  runStage_withMem (e := envOf s r force q) hagree rfl (visible_space q.ss)
    (placesAgree_stage1Place (e := envOf s r force q)
      (c := stage1Cfg s.launch r q.regime q.ss (upperRange q.regime q.va)) hagree stage1Cfg_tableIsIpa_ne_root)

theorem stage1_withMem (r : SysRegs) (force : Bool) : stage1 (s.withMem m) r force q = stage1 s r force q := by
  have hwalk := stage1Walk_withMem hagree r force
  unfold stage1
  refine if_congr Iff.rfl (if_congr Iff.rfl rfl (if_congr Iff.rfl rfl hwalk)) (if_congr Iff.rfl ?_ hwalk)
  exact walkFrom_withMem (e := envOf s r force q) hagree rfl (visible_space q.ss) (placesAgree_placeOf q.ss)
    fun _ => openPoint_staysVisible

theorem firstStage_withMem (r : SysRegs) (force : Bool) :
    firstStage (s.withMem m) r force q = firstStage s r force q :=
  if_congr Iff.rfl rfl (stage1_withMem hagree r force)

theorem secondStage_withMem (r : SysRegs) (force : Bool) (o : StageOk) :
    secondStage (s.withMem m) r force q o = secondStage s r force q o := by
  unfold secondStage
  refine if_congr Iff.rfl rfl (if_congr Iff.rfl ?_ rfl)
  exact Traced.bind_congr (stage2_withMem (e := envOf s r force q) hagree ..) fun _ _ => rfl

theorem attempt_withMem (r : SysRegs) (force : Bool) : attempt (s.withMem m) r force q = attempt s r force q :=
  Traced.bind_congr
    (Traced.bind_congr (firstStage_withMem hagree r force) fun o _ => secondStage_withMem hagree r force o)
    fun _ _ => rfl

/-- A translation, and all it reads, is the same. -/
theorem translateAddress_withMem : translateAddress (s.withMem m) q = translateAddress s q := by
  rw [translateAddress_eq, translateAddress_eq]
  have hview : regsView (s.withMem m) q.purpose = regsView s q.purpose := rfl
  rw [hview, attempt_withMem hagree, attempt_withMem hagree]
  rfl

end

/-- The end of an AT instruction does not look at memory. -/
theorem atFinish_withMem (s : State) (m : List Host.Cell) (f : AtForm) (fmt : ParFormat) (x : Res TransOk) :
    atFinish (s.withMem m) f fmt x = withMemOutcome m (atFinish s f fmt x) := by
  cases x with
  | mmu e =>
    by_cases hr : atReports s.launch f e = true
    · have hr' : atReports (s.withMem m).launch f e = true := hr
      simp only [atFinish, if_pos hr, if_pos hr']; rfl
    · have hr' : ¬atReports (s.withMem m).launch f e = true := hr
      simp only [atFinish, if_neg hr, if_neg hr']; rfl
  | ok t => rfl
  | stop e => rfl
  | refuse e => rfl

/-- Settles O22: the instruction is its translation for the target state and the report of it, and the lookups of that
translation are all in visible spaces. -/
theorem otherSpacesDoNotMatter : Obligations.OtherSpacesDoNotMatter := by
  intro i s ss m hex hagree
  have hex' : ExecutesFor i.form (s.withMem m) ss := hex
  rw [exec_eq, exec_eq, execAt_of_executes hex, execAt_of_executes hex']
  unfold atTranslate
  dsimp only
  have hview : regsView (s.withMem m) .atInstr = regsView s .atInstr := rfl
  have hxt : readXt (s.withMem m) i.xt = readXt s i.xt := by cases i.xt <;> rfl
  rw [hview, hxt, translateAddress_withMem hagree]
  exact atFinish_withMem (s.noteWalk _) m ..

end Sys2Proof.Machine

/-! SUPPORT. Decoding and encoding the AT instructions: the fields of a word, what decodes, and the rows of the opcode
map (spec/30_encoding.md R131 to R136); and the statements O1, O2, O3, O4 and O5. -/

namespace Sys2Proof

/-! ### A word and its fields (R134) -/

/-- The word of the SYS instruction with CRn 0111 that has these fields (R134). -/
def atWord (op1 : BitVec 3) (crm : BitVec 4) (op2 : BitVec 3) (rt : BitVec 5) : BitVec 32 :=
  0b1101010100001#13 ++ op1 ++ 0b0111#4 ++ crm ++ op2 ++ rt

theorem encode_eq_atWord (i : Instr) :
    encode i = atWord (encodeOp i).1 (encodeOp i).2.1 (encodeOp i).2.2 (encodeXt i.xt) := rfl

section
variable (op1 : BitVec 3) (crm : BitVec 4) (op2 : BitVec 3) (rt : BitVec 5)

@[simp] theorem atWord_rt : (atWord op1 crm op2 rt).extractLsb' 0 5 = rt := BitVec.extractLsb'_append_eq_right

/-- The bits above Rt are those of the word without Rt. -/
theorem atWord_above_rt {start len : Nat} (h : 5 ≤ start) :
    (atWord op1 crm op2 rt).extractLsb' start len =
      (0b1101010100001#13 ++ op1 ++ 0b0111#4 ++ crm ++ op2).extractLsb' (start - 5) len :=
  BitVec.extractLsb'_append_eq_of_le h

@[simp] theorem atWord_op2 : (atWord op1 crm op2 rt).extractLsb' 5 3 = op2 := by
  rw [atWord_above_rt _ _ _ _ (by decide)]
  exact BitVec.extractLsb'_append_eq_right

@[simp] theorem atWord_crm : (atWord op1 crm op2 rt).extractLsb' 8 4 = crm := by
  rw [atWord_above_rt _ _ _ _ (by decide), BitVec.extractLsb'_append_eq_of_le (by decide)]
  exact BitVec.extractLsb'_append_eq_right

@[simp] theorem atWord_crn : (atWord op1 crm op2 rt).extractLsb' 12 4 = 0b0111#4 := by
  rw [atWord_above_rt _ _ _ _ (by decide), BitVec.extractLsb'_append_eq_of_le (by decide),
    BitVec.extractLsb'_append_eq_of_le (by decide)]
  exact BitVec.extractLsb'_append_eq_right

@[simp] theorem atWord_op1 : (atWord op1 crm op2 rt).extractLsb' 16 3 = op1 := by
  rw [atWord_above_rt _ _ _ _ (by decide), BitVec.extractLsb'_append_eq_of_le (by decide),
    BitVec.extractLsb'_append_eq_of_le (by decide), BitVec.extractLsb'_append_eq_of_le (by decide)]
  exact BitVec.extractLsb'_append_eq_right

@[simp] theorem atWord_fixed : (atWord op1 crm op2 rt).extractLsb' 19 13 = 0b1101010100001#13 := by
  rw [atWord_above_rt _ _ _ _ (by decide), BitVec.extractLsb'_append_eq_of_le (by decide),
    BitVec.extractLsb'_append_eq_of_le (by decide), BitVec.extractLsb'_append_eq_of_le (by decide)]
  exact BitVec.extractLsb'_append_eq_left

end

/-- A word whose fixed bits and CRn are those of an AT instruction is made of its other fields. -/
theorem atWord_of_fields {w : BitVec 32} (hfixed : w.extractLsb' 19 13 = 0b1101010100001#13)
    (hcrn : w.extractLsb' 12 4 = 0b0111#4) :
    atWord (w.extractLsb' 16 3) (w.extractLsb' 8 4) (w.extractLsb' 5 3) (w.extractLsb' 0 5) = w := by
  unfold atWord
  rw [← hfixed, ← hcrn]
  repeat rw [BitVec.extractLsb'_append_extractLsb'_eq_extractLsb' (by decide)]
  exact BitVec.extractLsb'_eq_self

/-- The bytes of a word are the bytes of that word. -/
theorem wordOfBytes_bytesOfWord (w : BitVec 32) :
    wordOfBytes (w.extractLsb' 0 8) (w.extractLsb' 8 8) (w.extractLsb' 16 8) (w.extractLsb' 24 8) = w := by
  unfold wordOfBytes
  repeat rw [BitVec.extractLsb'_append_extractLsb'_eq_extractLsb' (by decide)]
  exact BitVec.extractLsb'_eq_self

/-! ### The operand in the field Rt (R134) -/

theorem decodeXt_encodeXt {t : XReg} (h : t.wellFormed = true) : decodeXt (encodeXt t) = t := by
  cases t with
  | zr => rfl
  | x n =>
    have hn : n < 31 := by simpa [XReg.wellFormed] using h
    have hmod : n % 2 ^ 5 = n := Nat.mod_eq_of_lt (by omega)
    have hne : BitVec.ofNat 5 n ≠ 31#5 := fun he => by
      have hnat := congrArg BitVec.toNat he
      rw [BitVec.toNat_ofNat, hmod] at hnat
      exact hn.ne hnat
    rw [encodeXt, decodeXt, if_neg hne, BitVec.toNat_ofNat, hmod]

theorem encodeXt_decodeXt (r : BitVec 5) : encodeXt (decodeXt r) = r := by
  unfold decodeXt
  split
  next h => exact h.symm
  next => simp [encodeXt]

theorem decodeXt_wellFormed (r : BitVec 5) : (decodeXt r).wellFormed = true := by
  unfold decodeXt
  split
  next => rfl
  next h => simp only [XReg.wellFormed, decide_eq_true_eq]; bv_omega

/-! ### What decodes -/

/-- The opcode map read in both directions: the fields select the operation that has them (R136). -/
theorem decodeOp_eq_some_iff {op1 : BitVec 3} {crm : BitVec 4} {op2 : BitVec 3} {t : XReg} {i : Instr} :
    decodeOp op1 crm op2 t = some i ↔ encodeOp i = (op1, crm, op2) ∧ i.xt = t := by
  constructor
  · intro h
    unfold decodeOp at h
    split at h <;> cases h <;> exact ⟨rfl, rfl⟩
  · rintro ⟨hop, rfl⟩
    cases i <;> cases hop <;> rfl

/-- A word decodes to an instruction exactly where its fixed bits and CRn are those of an AT instruction, and its other
fields those of the instruction. -/
theorem decode_eq_ok_iff {w : BitVec 32} {i : Instr} :
    decode w = .ok i ↔
      w.extractLsb' 19 13 = 0b1101010100001#13 ∧ w.extractLsb' 12 4 = 0b0111#4 ∧
      encodeOp i = (w.extractLsb' 16 3, w.extractLsb' 8 4, w.extractLsb' 5 3) ∧
      i.xt = decodeXt (w.extractLsb' 0 5) := by
  rw [← decodeOp_eq_some_iff]
  unfold decode
  by_cases hfixed : w.extractLsb' 19 13 = 0b1101010100001#13
  · by_cases hcrn : w.extractLsb' 12 4 = 0b0111#4
    · rw [if_neg (not_not.mpr hfixed), if_neg (not_not.mpr hcrn)]
      cases decodeOp _ _ _ _ <;> simp [hfixed, hcrn]
    · simp [hfixed, hcrn]
  · simp [hfixed]

/-- The word of a well-formed instruction decodes to it. -/
theorem decode_encode {i : Instr} (h : i.wellFormed = true) : decode (encode i) = .ok i := by
  rw [decode_eq_ok_iff, encode_eq_atWord]
  simp only [atWord_fixed, atWord_crn, atWord_op1, atWord_crm, atWord_op2, atWord_rt, true_and]
  exact (decodeXt_encodeXt h).symm

theorem decodeBytes_bytesOfWord (w : BitVec 32) (rest : List Byte) :
    decodeBytes (bytesOfWord w ++ rest) =
      match decode w with
      | .ok i => .ok (i, rest)
      | .error e => .error e := by
  conv_rhs => rw [← wordOfBytes_bytesOfWord w]
  rfl

/-- Settles O1: the bytes of a word are read back as the word, and the word of a well-formed instruction decodes to
it. -/
theorem decodeEncodeRoundTrip : Obligations.DecodeEncodeRoundTrip := by
  intro i rest h
  rw [decodeBytes_bytesOfWord, decode_encode h]

/-- Settles O2: the operand of a decoded instruction is the decoded field Rt, and the word is made of its fields. -/
theorem encodeDecodeRoundTrip : Obligations.EncodeDecodeRoundTrip := by
  intro w i h
  obtain ⟨hfixed, hcrn, hop, hxt⟩ := decode_eq_ok_iff.mp h
  refine ⟨?_, ?_⟩
  · rw [Instr.wellFormed, hxt]
    exact decodeXt_wellFormed _
  · rw [encode_eq_atWord, hop, hxt, encodeXt_decodeXt]
    exact atWord_of_fields hfixed hcrn

/-! ### The rows of the opcode map (R132, R136) -/

/-- The instructions with operand `t`, one for each row of the opcode map, in its order. -/
def instrRows (t : XReg) : List Instr :=
  [.atS1E1R t, .atS1E1W t, .atS1E0R t, .atS1E0W t, .atS1E1RP t, .atS1E1WP t, .atS1E1A t, .atS1E2R t, .atS1E2W t,
   .atS12E1R t, .atS12E1W t, .atS12E0R t, .atS12E0W t, .atS1E2A t, .atS1E3R t, .atS1E3W t, .atS1E3A t]

/-- Every instruction is in a row, and the operand is all that the rows leave open. -/
theorem mem_instrRows_iff {i : Instr} {t : XReg} : i ∈ instrRows t ↔ i.xt = t := by
  constructor
  · have hall : ∀ i ∈ instrRows t, i.xt = t := by simp [instrRows, Instr.xt]
    exact hall i
  · rintro rfl
    cases i <;> simp [instrRows, Instr.xt]

/-- What the opcode map fixes of an instruction's word, for every instruction. -/
theorem fixedBits_statement (i : Instr) : Laws.FixedBits.Statement i := by
  cases i with
  | atS1E1R t => exact Laws.FixedBits.atS1E1R t
  | atS1E1W t => exact Laws.FixedBits.atS1E1W t
  | atS1E0R t => exact Laws.FixedBits.atS1E0R t
  | atS1E0W t => exact Laws.FixedBits.atS1E0W t
  | atS1E1RP t => exact Laws.FixedBits.atS1E1RP t
  | atS1E1WP t => exact Laws.FixedBits.atS1E1WP t
  | atS1E1A t => exact Laws.FixedBits.atS1E1A t
  | atS1E2R t => exact Laws.FixedBits.atS1E2R t
  | atS1E2W t => exact Laws.FixedBits.atS1E2W t
  | atS12E1R t => exact Laws.FixedBits.atS12E1R t
  | atS12E1W t => exact Laws.FixedBits.atS12E1W t
  | atS12E0R t => exact Laws.FixedBits.atS12E0R t
  | atS12E0W t => exact Laws.FixedBits.atS12E0W t
  | atS1E2A t => exact Laws.FixedBits.atS1E2A t
  | atS1E3R t => exact Laws.FixedBits.atS1E3R t
  | atS1E3W t => exact Laws.FixedBits.atS1E3W t
  | atS1E3A t => exact Laws.FixedBits.atS1E3A t

/-- A word is its bits above Rt and its field Rt. -/
theorem masked_or_rt (w : BitVec 32) : w &&& 0xFFFFFFE0#32 ||| (w.extractLsb' 0 5).setWidth 32 = w := by
  have hrt : (w.extractLsb' 0 5).setWidth 32 = w &&& 0x1F#32 := by
    apply BitVec.eq_of_toNat_eq
    have hmask : w.toNat &&& 31 = w.toNat % 32 := Nat.and_two_pow_sub_one_eq_mod w.toNat 5
    have hlow : ((w.extractLsb' 0 5).setWidth 32).toNat = w.toNat % 32 := by simp; omega
    rw [hlow, BitVec.toNat_and]
    exact hmask.symm
  rw [hrt, ← BitVec.and_or_distrib_left]
  exact BitVec.and_allOnes

/-- A word that decodes is, its field Rt cleared, the match value of its instruction's row. -/
theorem masked_mem_rows_of_decode {w : BitVec 32} {i : Instr} (h : decode w = .ok i) :
    w &&& 0xFFFFFFE0#32 ∈ (instrRows i.xt).map Laws.rowWord := by
  have hw : encode i = w := (encodeDecodeRoundTrip w i h).2
  have hrow : w &&& 0xFFFFFFE0#32 = Laws.rowWord i := hw ▸ (fixedBits_statement i).2
  rw [hrow]
  exact List.mem_map_of_mem (mem_instrRows_iff.mpr rfl)

/-- A word that is, its field Rt cleared, the match value of a row decodes to the instruction of that row whose operand
the field Rt names. -/
theorem decodes_of_masked_mem_rows {w : BitVec 32}
    (h : w &&& 0xFFFFFFE0#32 ∈ (instrRows (decodeXt (w.extractLsb' 0 5))).map Laws.rowWord) :
    ∃ i, decode w = .ok i := by
  obtain ⟨i, hi, hrow⟩ := List.mem_map.mp h
  have hxt : i.xt = decodeXt (w.extractLsb' 0 5) := mem_instrRows_iff.mp hi
  have hwf : i.wellFormed = true := by rw [Instr.wellFormed, hxt]; exact decodeXt_wellFormed _
  have hw : encode i = w := by
    rw [(fixedBits_statement i).1, hrow, hxt, encodeXt_decodeXt, masked_or_rt]
  exact ⟨i, hw ▸ decode_encode hwf⟩

/-- Settles O3: the listed values are the match values of the rows, whatever the operand. -/
theorem decodesExactlyTheOpcodeMap : Obligations.DecodesExactlyTheOpcodeMap := fun _ =>
  ⟨fun ⟨_, hi⟩ => masked_mem_rows_of_decode hi, decodes_of_masked_mem_rows⟩

/-- Settles O4: seven closed words, run through the decoder. -/
theorem opcodeWordsDecodeRight : Obligations.OpcodeWordsDecodeRight := by
  unfold Obligations.OpcodeWordsDecodeRight
  decide

/-! ### The list of operations (R131, R132) -/

/-- The listed operations are those of the rows, in another order. -/
theorem operations_perm_rows (t : XReg) : operations.Perm ((instrRows t).map Instr.form) := by
  have hrows : (instrRows t).map Instr.form = (instrRows .zr).map Instr.form := rfl
  rw [hrows]
  decide

/-- An operation is listed exactly where an instruction has it. -/
theorem mem_operations_iff {f : AtForm} : f ∈ operations ↔ ∃ i : Instr, i.form = f := by
  constructor
  · intro hf
    obtain ⟨i, -, hi⟩ := List.mem_map.mp ((operations_perm_rows .zr).mem_iff.mp hf)
    exact ⟨i, hi⟩
  · rintro ⟨i, rfl⟩
    exact (operations_perm_rows i.xt).mem_iff.mpr (List.mem_map_of_mem (mem_instrRows_iff.mpr rfl))

/-- Among the listed operations, `<pan>` stands in operations on stage 1 of EL1 only (R131). -/
theorem panPermitted_of_mem_operations : ∀ f ∈ operations, f.panPermitted = true := by decide

/-- Settles O5: the listed operations are those of the rows, which hold every instruction. -/
theorem operationsAreThoseListed : Obligations.OperationsAreThoseListed := fun f =>
  ⟨mem_operations_iff, panPermitted_of_mem_operations f⟩

end Sys2Proof

/-! SUPPORT. What a step runs, and the end of an AT instruction that is UNDEFINED (spec/10_state.md R61; 30_encoding.md
R137); and the statements O6 and O7. -/

namespace Sys2Proof.Machine

/-- Bytes that decode to an instruction run it, whatever bytes follow its word. -/
theorem runBytes_of_decode {s : State} {notes : List LookupNote} {bs rest : List Byte} {i : Instr}
    (h : decodeBytes bs = .ok (i, rest)) : runBytes s notes bs = exec i (s.noteExecuted.noteWalk notes) := by
  simp only [runBytes, h]

/-- A step that fetches bytes runs them. -/
theorem stepInstr_of_fetch {s : State} {bs : List Byte} (h : (fetchBytes s).2 = .ok bs) :
    stepInstr s = runBytes s (fetchBytes s).1 bs := by
  simp only [stepInstr, h]

/-- Settles O6: with no event waiting a step fetches, decodes and runs. -/
theorem stepRunsDecodedInstruction : Obligations.StepRunsDecodedInstruction := by
  intro s bs rest i hin hfetch hdec
  rw [step_of_no_inputs hin, stepInstr_of_fetch hfetch, runBytes_of_decode hdec]

/-- No operation that is UNDEFINED in a state executes for a Security state. -/
theorem not_undefinedAt_of_executes {f : AtForm} {s : State} {ss : SecState} (h : ExecutesFor f s ss) :
    ¬UndefinedAt f s := by
  obtain ⟨hfeat, hlevel, htarget, hel2⟩ := h
  rintro (hno | hlow | hnone | ⟨ss', htarget', he2, hoff⟩)
  · rw [hfeat] at hno; cases hno
  · omega
  · rw [htarget] at hnone; cases hnone
  · obtain rfl : ss = ss' := Option.some.inj (htarget.symm.trans htarget')
    rw [hel2 he2] at hoff; cases hoff

/-- A translation and its report never end as UNDEFINED: a walk stops for its own reasons, and the fault it finds is
reported or taken as an MMU exception. -/
theorem atTranslate_ne_undefined (f : AtForm) (r : SysRegs) (ss : SecState) (va : Word) (s : State) :
    atTranslate f r ss va s ≠ .fault .undefined := by
  intro h
  unfold atTranslate atFinish at h
  dsimp only at h
  split at h
  next => cases h
  next => split at h <;> cases h
  next hx =>
    cases h
    obtain hlong | ⟨_, _, haddr⟩ := translateAddress_stop hx
    · cases hlong
    · cases haddr
  next => cases h

/-- Settles O7: an instruction is in a case of R137 and ends as UNDEFINED, or executes for a Security state, in no such
case, and translates. -/
theorem atUndefinedExactlyInItsCases : Obligations.AtUndefinedExactlyInItsCases := by
  intro i s
  rw [exec_eq]
  obtain ⟨hu, hexec⟩ | ⟨ss, hss⟩ := execAt_cases i.form i.xt s
  · exact iff_of_true hexec hu
  · rw [execAt_of_executes hss]
    exact iff_of_false (atTranslate_ne_undefined _ _ _ _ _) (not_undefinedAt_of_executes hss)

end Sys2Proof.Machine

/-! SUPPORT. The lookups of one walk: what an Invalid and a Table descriptor lead to, and how many lookups there are
(spec/40_walk_generic.md R162, R164, R165, R167; 45_vmsav9_128.md R397, R400, R408); and the statements O41, O48 and
O23. -/

namespace Sys2Proof.Machine

/-! ### What a descriptor leads to (R164, R165, R167) -/

@[simp] theorem descStep_invalid (c : WalkCfg) (p : WalkPos) (mro : Bool) (ia : Nat) :
    descStep c p .invalid mro ia = .mmu ⟨.translation, p.level, c.stage, .invalidDescriptor⟩ := rfl

/-- Settles O41: a lookup that reads an Invalid descriptor is the last of its walk, and ends it as the descriptor
does. -/
theorem invalidDescriptorFaultsAtItsLevel : Obligations.InvalidDescriptorFaultsAtItsLevel := by
  intro e c place ia n p at_ hplace hlookup
  exact ⟨.invalidDescriptor, by rw [walkLoop_succ e c place ia n p hplace hlookup, descStep_invalid]⟩

/-- A Table descriptor leads to the next level (R167), past SKL levels more under VMSAv9-128 (R397). -/
theorem descStep_table_level {c : WalkCfg} {p p' : WalkPos} {t : TableDesc} {mro : Bool} {ia : Nat}
    (h : descStep c p (.table t) mro ia = .ok (.go p')) :
    p'.level = p.level + 1 + (if c.system = .vmsav9 then (t.skl.toNat : Int) else 0) := by
  obtain ⟨t', ht, ⟨hs, -, rfl⟩ | ⟨hs, -, rfl⟩⟩ := descStep_go h <;> cases ht <;> simp [nextPos, hs]

/-- Only the start of a walk gives a first lookup. -/
theorem descStep_not_first {c : WalkCfg} {p p' : WalkPos} {d : Desc} {mro : Bool} {ia : Nat}
    (h : descStep c p d mro ia = .ok (.go p')) : p'.first = false := by
  obtain ⟨t, -, ⟨-, -, rfl⟩ | ⟨-, -, rfl⟩⟩ := descStep_go h <;> rfl

/-- Settles O48: a Table descriptor of a lookup level leads to a lookup level, and by its system's rule. -/
theorem tableDescriptorsLeadToLaterLevels : Obligations.TableDescriptorsLeadToLaterLevels := by
  intro c p p' t mro ia hlo hhi h
  obtain ⟨-, hle⟩ := descStep_lookupLevel ⟨hlo, hhi⟩ h
  exact ⟨descStep_not_first h, hle, descStep_table_level h⟩

/-- Another lookup is at a later level (R164). -/
theorem descStep_level_lt {c : WalkCfg} {p p' : WalkPos} {d : Desc} {mro : Bool} {ia : Nat}
    (h : descStep c p d mro ia = .ok (.go p')) : p.level < p'.level := by
  obtain ⟨t, rfl, -⟩ := descStep_go h
  have := descStep_table_level h
  split at this <;> omega

/-! ### The number of lookups (R162, R408) -/

/-- This part of a translation does not stop for too many lookups. -/
def EndsInTime {α : Type} (x : Traced α) : Prop := x.2 ≠ .stop .walkTooLong

theorem endsInTime_pure {α : Type} {x : Res α} (h : x ≠ .stop .walkTooLong) : EndsInTime (Traced.pure x) := h

/-- A continued part ends in time where its two parts do. -/
theorem EndsInTime.bind {α β : Type} {x : Traced α} {f : α → Traced β} (hx : EndsInTime x)
    (hf : ∀ a, x.2 = .ok a → EndsInTime (f a)) : EndsInTime (x.bind f) := by
  intro h
  rcases Traced.bind_stop.mp h with h | ⟨a, ha, h⟩
  · exact hx h
  · exact hf a ha h

/-- A lookup stops only for an address that does not exist (R21, R22). -/
theorem lookup_ne_walkTooLong {e : WalkEnv} {c : WalkCfg} {p : WalkPos} {at_ : DescPlace} {ia : Nat} :
    lookup e c p at_ ia ≠ .stop .walkTooLong := by
  intro h
  unfold lookup at h
  split at h
  next => cases h
  next =>
    rcases Res.bind_stop.mp h with h | ⟨_, -, h⟩
    · unfold ttdRead at h
      split at h <;> cases h
    · cases h

/-- From a lookup level on a walk ends in time where a lookup is left for each level up to 3: every lookup that another
one follows moves to a later level. -/
theorem walkLoop_endsInTime {e : WalkEnv} {c : WalkCfg} {place : WalkPos → Traced DescPlace} {ia n : Nat} {p : WalkPos}
    (hplace : ∀ p, EndsInTime (place p)) (hp : LookupLevel p.level) (hn : 3 < p.level + n) :
    EndsInTime (walkLoop e c place ia n p) := by
  induction n generalizing p with
  | zero =>
    obtain ⟨-, hle⟩ := hp
    omega
  | succ n ih =>
    refine (hplace p).bind fun at_ _ => (endsInTime_pure lookup_ne_walkTooLong).bind fun d _ =>
      EndsInTime.bind descStep_ne_stop fun x hx => ?_
    cases x with
    | go p' =>
      have := descStep_level_lt hx
      exact ih (descStep_lookupLevel hp hx) (by omega)
    | done r => exact endsInTime_pure nofun

/-- Six lookups are enough from every lookup level on (R408). -/
theorem walkFrom_endsInTime {e : WalkEnv} {c : WalkCfg} {place : WalkPos → Traced DescPlace} {ia : Nat}
    {x : Res WalkStep} (hplace : ∀ p, EndsInTime (place p)) (hstop : x ≠ .stop .walkTooLong)
    (hx : ∀ p, x = .ok (.go p) → LookupLevel p.level) : EndsInTime (walkFrom e c place ia x) := by
  refine (endsInTime_pure hstop).bind fun y hy => ?_
  cases y with
  | go p =>
    have hp := hx p hy
    have ⟨hlo, _⟩ := hp
    exact walkLoop_endsInTime hplace hp (by simp only [maxLookups]; omega)
  | done r => exact endsInTime_pure nofun

/-- One stage ends in time: it starts at a lookup level, or goes on from an entry of one. -/
theorem runStage_endsInTime {e : WalkEnv} {c : WalkCfg} {place : WalkPos → Traced DescPlace} {ia : Nat}
    {assured epd : Bool} (htlb : ∀ t ∈ e.s.tlb, EntryOk e.s.launch t) (hplace : ∀ p, EndsInTime (place p)) :
    EndsInTime (runStage e c place ia assured epd) := by
  rcases runStage_cases e c place ia assured epd with h | h | ⟨t, ht, -, -, h⟩ <;> rw [h]
  · exact endsInTime_pure nofun
  · exact walkFrom_endsInTime hplace startWalk_ne_stop fun p => startWalk_lookupLevel
  · obtain ⟨hlo, hhi, -⟩ := htlb t ht
    exact walkFrom_endsInTime hplace descStep_ne_stop fun p => descStep_lookupLevel ⟨hlo, hhi⟩

theorem placeOf_endsInTime (p : WalkPos) : EndsInTime (placeOf p) := endsInTime_pure nofun

theorem stage2_endsInTime {e : WalkEnv} {ss : SecState} {use : S2Use} {ipa : Nat} {sp : Space}
    (htlb : ∀ t ∈ e.s.tlb, EntryOk e.s.launch t) : EndsInTime (stage2 e ss use ipa sp) := by
  refine (runStage_endsInTime htlb placeOf_endsInTime).bind fun d _ => ?_
  split <;> exact endsInTime_pure nofun

/-- Finding a stage 1 descriptor ends in time, with its own stage 2 (R178). -/
theorem stage1Place_endsInTime {e : WalkEnv} {c : WalkCfg} (htlb : ∀ t ∈ e.s.tlb, EntryOk e.s.launch t) (p : WalkPos) :
    EndsInTime (stage1Place e c p) := by
  unfold stage1Place
  split
  · refine (stage2_endsInTime (e := { e with ctx := p.level }) htlb).bind fun d _ => EndsInTime.bind ?_ fun _ _ => ?_
    · unfold tablePolicy
      split <;> exact endsInTime_pure nofun
    · exact endsInTime_pure nofun
  · exact placeOf_endsInTime p

section
variable {s : State} (htlb : ∀ t ∈ s.tlb, EntryOk s.launch t)
include htlb

theorem stage1Walk_endsInTime {r : SysRegs} {force : Bool} {q : Request} : EndsInTime (stage1Walk s r force q) :=
  runStage_endsInTime (e := envOf s r force q) htlb (stage1Place_endsInTime htlb)

theorem stage1_endsInTime {r : SysRegs} {force : Bool} {q : Request} : EndsInTime (stage1 s r force q) := by
  unfold stage1
  dsimp only
  split
  next =>
    split
    next => exact endsInTime_pure nofun
    next =>
      split
      next => exact endsInTime_pure nofun
      next => exact stage1Walk_endsInTime htlb
  next =>
    split
    next => exact walkFrom_endsInTime placeOf_endsInTime openPoint_ne_stop fun p h => absurd h openPoint_ne_go
    next => exact stage1Walk_endsInTime htlb

theorem firstStage_endsInTime {r : SysRegs} {force : Bool} {q : Request} : EndsInTime (firstStage s r force q) := by
  unfold firstStage flatStage1
  split
  next => split <;> exact endsInTime_pure nofun
  next => exact stage1_endsInTime htlb

theorem secondStage_endsInTime {r : SysRegs} {force : Bool} {q : Request} {o : StageOk} :
    EndsInTime (secondStage s r force q o) := by
  unfold secondStage
  split
  next => exact endsInTime_pure nofun
  next =>
    split
    next => exact (stage2_endsInTime (e := envOf s r force q) htlb).bind fun d _ => endsInTime_pure nofun
    next => exact endsInTime_pure nofun

end

/-- `CheckPerms` makes no lookup. -/
theorem permCheck_ne_stop {s : State} {r : SysRegs} {q : Request} {t : TransOk} {f : Fault} :
    permCheck s r q t ≠ .stop f := by
  unfold permCheck
  (repeat' split) <;> nofun

/-- Settles O23: a translation is one pass of stages that each start at a lookup level, and whose lookups move to later
levels. -/
theorem walksEnd : Obligations.WalksEnd := by
  intro s q htlb
  obtain ⟨force, h⟩ := translateAddress_attempt s q
  rw [h]
  exact ((firstStage_endsInTime htlb).bind fun o _ => secondStage_endsInTime htlb).bind fun t _ =>
    endsInTime_pure permCheck_ne_stop

end Sys2Proof.Machine

/-! SUPPORT. Concatenated tables at the initial lookup of stage 2 (spec/40_walk_generic.md R171; 42_granule_4k.md R281
and siblings), and the statement O55. -/

namespace Sys2Proof.Machine

/-- A stage 2 walk starts only at a level with which T0SZ is consistent, by the tables of its granule (R283, R323,
R363). -/
theorem v8S2Start_consistent {c : WalkCfg} {level : Int} (h : v8S2Start c = some level) :
    (c.granule = .g4K ∧ s2Consistent4K level c.sz c.ds c.ttst = true) ∨
    (c.granule = .g16K ∧ s2Consistent16K level c.sz c.ds c.ttst = true) ∨
    (c.granule = .g64K ∧ s2Consistent64K level c.sz c.lpa c.ttst = true) := by
  unfold v8S2Start at h
  cases hg : c.granule <;> simp only [hg] at h
  case g4K =>
    split at h
    next => obtain ⟨hc, ⟨⟩⟩ := Option.ite_none_right_eq_some.mp h; exact .inl ⟨rfl, hc⟩
    next => cases h
  case g16K => obtain ⟨hc, ⟨⟩⟩ := Option.ite_none_right_eq_some.mp h; exact .inr (.inl ⟨rfl, hc⟩)
  case g64K =>
    split at h
    next => obtain ⟨hc, ⟨⟩⟩ := Option.ite_none_right_eq_some.mp h; exact .inr (.inr ⟨rfl, hc⟩)
    next => cases h

/-- With the 4KB granule the concatenated tables fill the size of the initial lookup's table, sixteen granules at most
(R276 to R281, R286). -/
theorem s2Concat4K_of_consistent {level : Int} {sz : Nat} {ds ttst : Bool}
    (h : s2Consistent4K level sz ds ttst = true) :
    2 ^ (c4K level - 12 - sz) = s2Concat4K level sz ∧ c4K level - 12 - sz ≤ 4 := by
  unfold s2Consistent4K at h
  split_ifs at h <;> simp_all [s2Concat4K, c4K] <;> omega

/-- So they do with the 16KB granule (R316 to R320, R326). -/
theorem s2Concat16K_of_consistent {level : Int} {sz : Nat} {ds ttst : Bool}
    (h : s2Consistent16K level sz ds ttst = true) :
    2 ^ (c16K level - 14 - sz) = s2Concat16K level sz ∧ c16K level - 14 - sz ≤ 4 := by
  unfold s2Consistent16K at h
  split_ifs at h <;> simp_all [s2Concat16K, c16K] <;> omega

/-- And with the 64KB granule (R356 to R359, R366). -/
theorem s2Concat64K_of_consistent {level : Int} {sz : Nat} {lpa ttst : Bool}
    (h : s2Consistent64K level sz lpa ttst = true) :
    2 ^ (c64K level - 16 - sz) = s2Concat64K level sz ∧ c64K level - 16 - sz ≤ 4 := by
  unfold s2Consistent64K at h
  split_ifs at h <;> simp_all [s2Concat64K, c64K] <;> omega

/-- Where a stage 2 walk starts, the concatenated tables, of a granule each, fill the size of the initial lookup's
table, sixteen granules at most (R171). -/
theorem v8S2Concat_of_v8S2Start {c : WalkCfg} {level : Int} (h : v8S2Start c = some level) :
    2 ^ (v8C c.granule level - c.granule.bits - c.sz) = v8S2Concat c.granule level c.sz ∧
      v8C c.granule level - c.granule.bits - c.sz ≤ 4 := by
  obtain ⟨hg, hc⟩ | ⟨hg, hc⟩ | ⟨hg, hc⟩ := v8S2Start_consistent h <;> rw [hg]
  · exact s2Concat4K_of_consistent hc
  · exact s2Concat16K_of_consistent hc
  · exact s2Concat64K_of_consistent hc

/-- Settles O55: the number of tables is two to a power of at most four, and where that power is not zero, it is what
the size of the initial lookup's table has above a granule. -/
theorem concatenatedTablesAreAlignedWhole : Obligations.ConcatenatedTablesAreAlignedWhole := by
  intro c level h
  obtain ⟨hcount, hfour⟩ := v8S2Concat_of_v8S2Start h
  rw [← hcount]
  refine ⟨Nat.pow_le_pow_right (n := 2) (by decide) hfour, fun hmany => ?_⟩
  have hpos : v8C c.granule level - c.granule.bits - c.sz ≠ 0 := (Nat.one_lt_two_pow_iff).mp hmany
  have hx : v8X c.granule level true c.sz = v8C c.granule level - c.sz := if_pos rfl
  rw [← Nat.pow_add, hx]
  congr 1
  omega

end Sys2Proof.Machine

/-! SUPPORT. The range that VA bit 55 selects, and the faults of stage 1 before any lookup: an address in neither range,
E0PDn and EPDn (spec/40_walk_generic.md R190 to R197), and the statements O47, O44, O46 and O45. -/

namespace Sys2Proof.Machine

/-! ### The selected range (R191) -/

/-- In a regime with two ranges VA bit 55 selects the range (R191). -/
theorem upperRange_of_twoRanges {g : Regime} (h : twoRanges g = true) (va : Word) :
    upperRange g va = va.getLsbD 55 := by
  simp [upperRange, h]

/-- EL1&0 and EL2&0 have two ranges (R186). -/
theorem twoRanges_iff {g : Regime} : twoRanges g = true ↔ g = .el10 ∨ g = .el20 := by
  cases g <;> simp [twoRanges]

/-- Settles O47: bit 55 is the range of the walk's controls, and each of the four controls is that of the range. -/
theorem bit55SelectsTheTtbr : Obligations.Bit55SelectsTheTtbr := by
  intro l r ss va c d
  have hc : c = stage1Cfg l r .el10 ss (va.getLsbD 55) := by rw [← upperRange_of_twoRanges (g := .el10) rfl]
  have hd : d = stage1Cfg l r .el20 ss (va.getLsbD 55) := by rw [← upperRange_of_twoRanges (g := .el20) rfl]
  rw [hc, hd]
  constructor <;> intro hbit <;> rw [hbit] <;> exact ⟨rfl, rfl, rfl, rfl, rfl, rfl, rfl, rfl⟩

/-! ### The faults before any lookup (R190, R193, R196) -/

@[simp] theorem Traced.pure_mmu_bind {α β : Type} (e : MmuFault) (f : α → Traced β) :
    (Traced.pure (.mmu e) : Traced α).bind f = Traced.pure (.mmu e) := rfl

/-- A fault that stage 1 gives without a lookup is what the translation gives. -/
theorem attempt_of_stage1_mmu {s : State} {r : SysRegs} {force : Bool} {q : Request} {e : MmuFault}
    (hon : stage1Disabled s.launch r q.regime q.ss = false) (h : stage1 s r force q = Traced.pure (.mmu e)) :
    attempt s r force q = Traced.pure (.mmu e) := by
  simp [attempt, firstStage, hon, h]

/-- In a regime with two ranges stage 1 checks the range, then E0PDn, and only then looks at the TLB or walks (R190,
R196). -/
theorem stage1_of_twoRanges {s : State} {r : SysRegs} {force : Bool} {q : Request} (h : twoRanges q.regime = true) :
    stage1 s r force q =
      if !inLower (checkedVa r q.regime q.va) (tcrOf r q.regime).t0sz.toNat &&
          !inUpper (checkedVa r q.regime q.va) (tcrOf r q.regime).t1sz.toNat then
        Traced.pure (.mmu ⟨.translation, 0, .s1, .outOfRange⟩)
      else if s.launch.featE0pd && isEl0Access s.launch q && (tcrOf r q.regime).e0pd (q.va.getLsbD 55) then
        Traced.pure (.mmu ⟨.translation, 0, .s1, .e0pd⟩)
      else stage1Walk s r force q := by
  rw [stage1, if_pos h, upperRange_of_twoRanges h]

/-- Without `TopByteIgnore` all 64 bits are compared (D6). -/
theorem checkedVa_of_not_topByteIgnore {r : SysRegs} {g : Regime} {va : Word}
    (h : topByteIgnore r g (upperRange g va) = false) : checkedVa r g va = va.toNat := by
  simp [checkedVa, h]

/-- Settles O44: the range check is the first of stage 1, and an address between the ranges fails it. -/
theorem vaOutsideBothRangesFaults : Obligations.VaOutsideBothRangesFaults := by
  intro s r force q hg hon htbi hlo hhi
  have hlower : inLower q.va.toNat (tcrOf r q.regime).t0sz.toNat = false := decide_eq_false (Nat.not_lt.mpr hlo)
  have hupper : inUpper q.va.toNat (tcrOf r q.regime).t1sz.toNat = false := decide_eq_false (Nat.not_le.mpr hhi)
  refine ⟨.outOfRange, attempt_of_stage1_mmu hon ?_⟩
  rw [stage1_of_twoRanges (twoRanges_iff.mpr hg), checkedVa_of_not_topByteIgnore htbi, hlower, hupper]
  rfl

/-- Settles O46: only the range check comes before that of E0PDn, and it gives a fault of the same kind and level. -/
theorem e0pdFaults : Obligations.E0pdFaults := by
  intro s r force q hg hfeat hel hon he0pd
  have hel0 : isEl0Access s.launch q = true := by simp [isEl0Access, hel]
  have hstage := stage1_of_twoRanges (s := s) (r := r) (force := force) (twoRanges_iff.mpr hg)
  split at hstage
  next => exact ⟨.outOfRange, attempt_of_stage1_mmu hon hstage⟩
  next =>
    rw [hfeat, hel0, he0pd] at hstage
    exact ⟨.e0pd, attempt_of_stage1_mmu hon hstage⟩

/-- With no entry that answers there is none to use. -/
theorem usableEntries_of_no_answer {s : State} {pp : Purpose} {c : WalkCfg} {ia : Nat} {epd : Bool}
    (h : ∀ t ∈ s.tlb, t.answers c ia = false) : usableEntries s pp c ia epd = [] := by
  unfold usableEntries
  split
  next => rfl
  next => exact List.filter_eq_nil_iff.mpr fun t ht => by simp [h t ht]

/-- With EPDn 1 and no entry that answers, stage 1 gives the fault of EPDn in place of a walk (R193). -/
theorem stage1Walk_of_epd_miss {s : State} {r : SysRegs} {force : Bool} {q : Request}
    (hg : twoRanges q.regime = true) (hepd : (tcrOf r q.regime).epd (q.va.getLsbD 55) = true)
    (hmiss : ∀ t ∈ s.tlb, t.answers (stage1Cfg s.launch r q.regime q.ss (upperRange q.regime q.va))
      (checkedVa r q.regime q.va) = false) :
    stage1Walk s r force q = Traced.pure (.mmu ⟨.translation, 0, .s1, .epd⟩) := by
  unfold stage1Walk
  dsimp only
  rw [runStage_miss _ _ _ _ _ _ (usableEntries_of_no_answer hmiss), upperRange_of_twoRanges hg, hg, hepd]
  rfl

/-- Settles O45: the checks before the TLB give faults of the same kind and level as EPDn does. -/
theorem epdMissFaults : Obligations.EpdMissFaults := by
  intro s r force q hg hmiss hon hepd
  have htwo := twoRanges_iff.mpr hg
  have hstage := stage1_of_twoRanges (s := s) (r := r) (force := force) htwo
  split at hstage
  next => exact ⟨.outOfRange, attempt_of_stage1_mmu hon hstage⟩
  next =>
    split at hstage
    next => exact ⟨.e0pd, attempt_of_stage1_mmu hon hstage⟩
    next =>
      rw [stage1Walk_of_epd_miss htwo hepd hmiss] at hstage
      exact ⟨.epd, attempt_of_stage1_mmu hon hstage⟩

end Sys2Proof.Machine

/-! SUPPORT. RCW and RCWS instructions: when one completes, with the update or without, and what explicit reads see
then (spec/20_memory.md R93; 41_hardening.md R226 to R235), and the statements O37, O38 and O39. -/

namespace Sys2Proof.Machine

/-! ### The checks (R226 to R232) -/

/-- An update may be made unless Protection is enabled and the RCW checks fail, or the instruction is an RCWS and the
RCWS checks fail (R226). -/
theorem rcwAllowed_iff {s : State} {r : SysRegs} {g : Regime} {sw wide : Bool} {old new : Raw} :
    rcwAllowed s r g sw wide old new = true ↔
      ¬(protectionEnabled s.launch r g = true ∧ rcwChecksFail (rcwCheckOf s.launch r g wide old new) = true) ∧
      ¬(sw = true ∧ rcwsChecksFail (rcwCheckOf s.launch r g wide old new) = true) := by
  have hprot : (rcwCheckOf s.launch r g wide old new).protection = protectionEnabled s.launch r g := rfl
  cases sw <;> simp [rcwAllowed, rcwMayUpdate, rcwsMayUpdate, hprot, imp_iff_not_or]

/-- An RCWS may not change the valid bit: of a valid descriptor, or without Protection, or of a NonProtected one by the
RCWS checks (R231), and of a Protected one by the RCW checks (R228). -/
theorem newValid_eq_oldValid_of_rcwsMayUpdate {c : RcwCheck} (h : rcwsMayUpdate c = true) :
    c.newValid = c.oldValid := by
  obtain ⟨hrcw, hrcws⟩ : rcwMayUpdate c = true ∧ rcwsStateFail c = false := by
    simp_all [rcwsMayUpdate, rcwsChecksFail]
  by_contra hne
  have hold : c.oldValid = false := by
    cases hold : c.oldValid <;> simp_all [rcwsStateFail]
  have hnew : c.newValid = true := by simpa [hold] using hne
  obtain ⟨hprot, hprotected⟩ : c.protection = true ∧ (c.protection = true → c.oldProtected = true) := by
    simpa [rcwsStateFail, RcwCheck.isNonProtected, hold, hnew] using hrcws
  simp [rcwMayUpdate, rcwChecksFail, rcwStateFail, RcwCheck.isProtected, hprot, hprotected hprot, hne] at hrcw

/-! ### When the instruction completes (R93, R226, R235) -/

/-- The state that an RCW or RCWS instruction leaves without an update. -/
def afterRcwRead (s : State) (wide : Bool) (k : Nat) (attrs : Attrs) : State :=
  ((s.noteRead k (rcwBytes wide) false).noteSoft k (rcwBytes wide) attrs false).answer (.rcwUpdated false)

/-- The write that an update makes. -/
def rcwWrite (s : State) (r : SysRegs) (g : Regime) (ss : SecState) (sw wide : Bool) (k : Nat) (new : Raw) :
    PendingWrite :=
  { cells := cellsFrom k (bytesOfDesc (sctlrOf r g).ee (rcwBytes wide) (rcwNew wide new).toNat)
    reduced := sw && pttwiUsed s r g ss, own := true, simd := false, readBack := false, settled := false }

/-- The state that an update leaves. -/
def afterRcwUpdate (s : State) (r : SysRegs) (g : Regime) (ss : SecState) (sw wide : Bool) (k : Nat) (new : Raw)
    (attrs : Attrs) : State :=
  (((s.noteRead k (rcwBytes wide) false).noteSoft k (rcwBytes wide) attrs true).addWrite
    (rcwWrite s r g ss sw wide k new)).answer (.rcwUpdated true)

/-- An RCW or RCWS instruction completes with FEAT_THE, at a place that exists and that no walk has read in another way
(R93), and makes the update where it may. -/
theorem doRcw_next_iff {s t : State} {sw wide : Bool} {sp : Space} {slot : Nat} {new : Raw} {attrs : Attrs}
    {ss : SecState} {r : SysRegs} {g : Regime} {k : Nat} (hr : r = regsView s .explicit)
    (hss : stateAt s.launch r s.el = some ss) (hg : g = regimeOf r ss s.el)
    (hk : k = memKey sp (slot * rcwBytes wide)) :
    doRcw s sw wide sp slot new attrs = .next t ↔
      s.launch.featThe = true ∧ physExists s.launch sp (slot * rcwBytes wide) (rcwBytes wide) = true ∧
      tableMismatch s.tableReads k (rcwBytes wide) attrs = false ∧
      t = if rcwAllowed s r g sw wide (rcwOld s (sctlrOf r g).ee wide k) (rcwNew wide new) then
          afterRcwUpdate s r g ss sw wide k new attrs
        else afterRcwRead s wide k attrs := by
  subst hr hg hk
  unfold doRcw
  dsimp only
  rw [hss]
  cases s.launch.featThe with
  | false => simp [undefinedInstruction]
  | true =>
    cases physExists s.launch sp (slot * rcwBytes wide) (rcwBytes wide) with
    | false => simp
    | true =>
      cases tableMismatch s.tableReads (memKey sp (slot * rcwBytes wide)) (rcwBytes wide) attrs with
      | true => simp
      | false =>
        simp only [Bool.not_true, Bool.false_eq_true, if_false, true_and]
        split <;> exact ⟨fun h => (next_inj h).symm, fun h => congrArg _ h.symm⟩

/-! ### What explicit reads see then -/

/-- The mark of a read keeps every write in its place. -/
@[simp] theorem markRead_length (k n : Nat) (ws : List PendingWrite) : (markRead k n ws).length = ws.length := by
  induction ws with
  | nil => rfl
  | cons w ws ih => simp [markRead, ih]

/-- The mark of a read changes nothing that an explicit read sees. -/
theorem coherentBytes_noteRead (s : State) (k n j m : Nat) :
    coherentBytes (s.noteRead k n false) j m = coherentBytes s j m :=
  observedBytes_congr fun i _ => by simp [observedByte_markRead]

/-- An explicit read of the bytes that the last write puts gives them. -/
theorem coherentBytes_of_last_write {s : State} {us : List PendingWrite} {w : PendingWrite} {k : Nat} {bs : List Byte}
    (hpend : s.pendingWrites = us ++ [w]) (hw : w.cells = cellsFrom k bs) : coherentBytes s k bs.length = bs := by
  refine observedBytes_eq fun i hi => ?_
  rw [observedByte_all, hpend, byteAfter_append, byteAfter_singleton_cellsFrom hw hi]

/-- A descriptor is read in the byte order that it is written in (R82). -/
theorem valueOfBytes_bytesOfDesc (ee : Bool) (n v : Nat) : valueOfBytes ee (bytesOfDesc ee n v) = v % 256 ^ n := by
  cases ee <;> simp [valueOfBytes, bytesOfDesc, littleEndian_bytesOfValue]

/-- The new value of an update fits in the bytes of the descriptor. -/
theorem rcwNew_toNat_lt (wide : Bool) (new : Raw) : (rcwNew wide new).toNat < 256 ^ rcwBytes wide := by
  cases wide with
  | false => simp [rcwNew, rcwBytes]; omega
  | true => exact new.isLt

/-- After an update the descriptor reads back as the new value. -/
theorem rcwOld_afterRcwUpdate (s : State) (r : SysRegs) (g : Regime) (ss : SecState) (sw wide : Bool) (k : Nat)
    (new : Raw) (attrs : Attrs) :
    rcwOld (afterRcwUpdate s r g ss sw wide k new attrs) (sctlrOf r g).ee wide k = rcwNew wide new := by
  have hread := coherentBytes_of_last_write (s := afterRcwUpdate s r g ss sw wide k new attrs) rfl
    (w := rcwWrite s r g ss sw wide k new) rfl
  rw [bytesOfDesc_length] at hread
  rw [rcwOld, hread, valueOfBytes_bytesOfDesc, Nat.mod_eq_of_lt (rcwNew_toNat_lt wide new), BitVec.ofNat_toNat,
    BitVec.setWidth_eq]

/-! ### The statements -/

/-- Settles O37: the update may not be made, and the read that the instruction makes is all that it leaves. -/
theorem failedChecksKeepTheDescriptor : Obligations.FailedChecksKeepTheDescriptor := by
  intro s sw wide sp slot new attrs ss g r k hthe hr hss hg hphys hk hmatch hfail
  refine ⟨afterRcwRead s wide k attrs, (doRcw_next_iff hr hss hg hk).mpr ⟨hthe, hphys, hmatch, ?_⟩, rfl, rfl,
    coherentBytes_noteRead s k _, rfl⟩
  rw [if_neg]
  intro hallowed
  obtain ⟨hrcw, hrcws⟩ := rcwAllowed_iff.mp hallowed
  exact hfail.elim hrcw hrcws

/-- Settles O38: an update was allowed, and no RCWS that is allowed changes the valid bit. -/
theorem rcwsNeverChangesValidity : Obligations.RcwsNeverChangesValidity := by
  rintro s t wide sp slot new attrs ss r sys hr hss rfl h hout
  obtain ⟨-, -, -, rfl⟩ := (doRcw_next_iff hr hss rfl rfl).mp h
  split at hout
  next hallowed => exact newValid_eq_oldValid_of_rcwsMayUpdate hallowed
  next => cases hout

/-- Settles O39: without Protection no RCW is forbidden, and the whole new value is written. -/
theorem rcwWithoutProtectionWritesAll : Obligations.RcwWithoutProtectionWritesAll := by
  intro s wide sp slot new attrs ss r hthe hr hss hprot hphys hmatch
  refine ⟨afterRcwUpdate s r _ ss false wide _ new attrs,
    (doRcw_next_iff hr hss rfl rfl).mpr ⟨hthe, hphys, hmatch, (if_pos ?_).symm⟩, rcwOld_afterRcwUpdate ..⟩
  exact rcwAllowed_iff.mpr ⟨by simp [hprot], by simp⟩

end Sys2Proof.Machine

/-! SUPPORT. The FEAT_THE checks of a stage 2 translation and the Assured Translation property of the levels of a walk
(spec/41_hardening.md R223, R240 to R252), and the statements O58, O59 and O60. -/

namespace Sys2Proof.Machine

/-! ### The fault of a check (R244, R245, R248 to R250) -/

/-- Where stage 2 finds a final descriptor, a fault is that of a FEAT_THE check. -/
theorem stage2_mmu_iff {e : WalkEnv} {ss : SecState} {use : S2Use} {ipa : Nat} {sp : Space} {d : StageOk}
    {f : MmuFault} (hd : (runStage e (stage2Cfg e.s.launch e.regs ss sp) placeOf ipa false false).2 = .ok d) :
    (stage2 e ss use ipa sp).2 = .mmu f ↔ hardeningFault e.s.launch e.regs use d = some f := by
  rw [stage2, Traced.bind_of_ok hd]
  cases hardeningFault e.s.launch e.regs use d <;> simp

/-- The rows of Table D8-14 marked Yes. -/
theorem topLevelFault0_iff {tl0 tl1 top0 top1 : Bool} :
    topLevelFault0 tl0 tl1 top0 top1 = true ↔
      (tl0, tl1, top0, top1) = (false, true, false, true) ∨ (tl0 = true ∧ top0 = false) := by
  simp [topLevelFault0, and_assoc]

/-- The rows of Table D8-15 marked Yes. -/
theorem topLevelFault1_iff {tl0 tl1 top0 top1 : Bool} :
    topLevelFault1 tl0 tl1 top0 top1 = true ↔
      (tl0, tl1, top0, top1) = (true, false, true, false) ∨ (tl1 = true ∧ top1 = false) := by
  simp [topLevelFault1, and_assoc]

/-- The TopLevel checks of a range fail, by the table of its base register. -/
def topLevelChecksFail (r : SysRegs) (upper : Bool) (d : StageOk) : Bool :=
  if upper then topLevelFault1 r.vtcrEl2.tl0 r.vtcrEl2.tl1 d.topLevel0 d.topLevel1
  else topLevelFault0 r.vtcrEl2.tl0 r.vtcrEl2.tl1 d.topLevel0 d.topLevel1

section
variable {l : Launch} {r : SysRegs} {d : StageOk} (hthe : l.featThe = true)
include hthe

/-- Of the initial lookup the TopLevel checks are made, and then the AssuredOnly check (R244, R250). -/
theorem hardeningFault_initialRead (upper assured : Bool) :
    hardeningFault l r (.tableRead true upper assured) d =
      if topLevelChecksFail r upper d then some ⟨.permission, d.level, .s2, .topLevel⟩
      else if assuredOnlyAttr l r d.assuredOnly && !assured then some ⟨.permission, d.level, .s2, .assuredOnly⟩
      else none := by
  simp [hardeningFault, hthe, topLevelChecksFail, S2Use.assured]

/-- Of a later lookup the AssuredOnly check is made alone (R244). -/
theorem hardeningFault_laterRead (upper assured : Bool) :
    hardeningFault l r (.tableRead false upper assured) d =
      if assuredOnlyAttr l r d.assuredOnly && !assured then some ⟨.permission, d.level, .s2, .assuredOnly⟩
      else none := by
  simp [hardeningFault, hthe, S2Use.assured]

/-- Of the access itself the AssuredOnly check is made, and then the Guarded control stack check (R244, R245). -/
theorem hardeningFault_final (assured gcs : Bool) :
    hardeningFault l r (.final assured gcs) d =
      if assuredOnlyAttr l r d.assuredOnly && !assured then some ⟨.permission, d.level, .s2, .assuredOnly⟩
      else if gcs && r.vtcrEl2.gcsh && !assuredOnlyAttr l r d.assuredOnly then
        some ⟨.permission, d.level, .s2, .gcsh⟩
      else none := by
  simp [hardeningFault, hthe, S2Use.assured]

/-- The initial lookup gives the fault of the TopLevel checks exactly where they fail. -/
theorem hardeningFault_topLevel_iff (upper assured : Bool) :
    (∃ level, hardeningFault l r (.tableRead true upper assured) d = some ⟨.permission, level, .s2, .topLevel⟩) ↔
      topLevelChecksFail r upper d = true := by
  rw [hardeningFault_initialRead hthe]
  split
  next hfail => simp [hfail]
  next hpass => split <;> simp [hpass]

/-- A descriptor that is AssuredOnly, used from a level without the Assured Translation property, gives a
fault: that of the AssuredOnly check, or that of the TopLevel checks, which come first (R244). -/
theorem hardeningFault_of_assuredOnly {use : S2Use} (hattr : assuredOnlyAttr l r d.assuredOnly = true)
    (huse : use.assured = false) : ∃ cause, hardeningFault l r use d = some ⟨.permission, d.level, .s2, cause⟩ := by
  cases use with
  | tableRead first upper assured =>
    obtain rfl : assured = false := huse
    cases first with
    | false => exact ⟨.assuredOnly, by simp [hardeningFault_laterRead hthe, hattr]⟩
    | true =>
      rw [hardeningFault_initialRead hthe, hattr]
      split
      next => exact ⟨.topLevel, rfl⟩
      next => exact ⟨.assuredOnly, rfl⟩
  | final assured gcs =>
    obtain rfl : assured = false := huse
    exact ⟨.assuredOnly, by simp [hardeningFault_final hthe, hattr]⟩

/-- A privileged Guarded control stack data access from EL1 through a descriptor that is not AssuredOnly gives the
fault of its check where GCSH is 1 (R245). -/
theorem hardeningFault_of_gcsh (assured : Bool) (hattr : assuredOnlyAttr l r d.assuredOnly = false)
    (hgcsh : r.vtcrEl2.gcsh = true) :
    hardeningFault l r (.final assured true) d = some ⟨.permission, d.level, .s2, .gcsh⟩ := by
  simp [hardeningFault_final hthe, hattr, hgcsh]

end

/-- Settles O58: a fault of the TopLevel checks is that of the function of the table, whose rows marked Yes are those
of the statement. -/
theorem topLevelChecksFault : Obligations.TopLevelChecksFault := by
  rintro e ss upper assured ipa sp d row hd hthe rfl
  simp only [stage2_mmu_iff hd, hardeningFault_topLevel_iff hthe]
  cases upper with
  | false => exact topLevelFault0_iff
  | true => exact topLevelFault1_iff

/-! ### The stages of a translation (R160) -/

/-- With stage 1 disabled the address comes from no level with the Assured Translation property. -/
theorem firstStage_not_assured_of_disabled {s : State} {r : SysRegs} {force : Bool} {q : Request} {o : StageOk}
    (hoff : stage1Disabled s.launch r q.regime q.ss = true) (h : (firstStage s r force q).2 = .ok o) :
    o.assured = false := by
  rw [firstStage, if_pos hoff, Traced.pure_snd, flatStage1] at h
  split at h
  next => cases h
  next => cases h; rfl

/-- A fault of the stage 2 translation of the output of stage 1 is that of the translation. -/
theorem attempt_of_stage2_mmu {s : State} {r : SysRegs} {force : Bool} {q : Request} {o : StageOk} {f : MmuFault}
    (hs1 : q.stage1Only = false) (hs2 : stage2Enabled s.launch r q.regime q.ss = true)
    (ho : (firstStage s r force q).2 = .ok o)
    (h : (stage2 (envOf s r force q) q.ss (.final o.assured (gcsFromEl1 q)) o.oa o.space).2 = .mmu f) :
    (attempt s r force q).2 = .mmu f := by
  obtain ⟨hhas, hvm⟩ : hasStage2 s.launch r q.regime q.ss = true ∧ vmEffective s.launch r q.ss = true := by
    simpa [stage2Enabled] using hs2
  have hsecond : (secondStage s r force q o).2 = .mmu f := by
    simp only [secondStage, hs1, hhas, hvm, Bool.not_true, Bool.or_self, Bool.false_eq_true, if_false, if_true]
    exact Traced.bind_mmu.mpr (.inl h)
  exact Traced.bind_mmu.mpr (.inl (Traced.bind_mmu.mpr (.inr ⟨o, ho, hsecond⟩)))

/-- Settles O59: each check gives a fault at the level of the descriptor, and a fault of the second stage is that of
the translation. -/
theorem assuredOnlyAndGcsChecksFault : Obligations.AssuredOnlyAndGcsChecksFault := by
  constructor
  · intro e ss use ipa sp d hd hthe hattr huse
    obtain ⟨cause, hf⟩ := hardeningFault_of_assuredOnly hthe hattr huse
    exact ⟨cause, (stage2_mmu_iff hd).mpr hf⟩
  · intro s r force q o d hthe hs1 hs2 ho hd hcheck
    suffices hfault : ∃ cause, hardeningFault s.launch r (.final o.assured (gcsFromEl1 q)) d =
        some ⟨.permission, d.level, .s2, cause⟩ by
      obtain ⟨cause, hf⟩ := hfault
      exact ⟨cause, attempt_of_stage2_mmu hs1 hs2 ho ((stage2_mmu_iff hd).mpr hf)⟩
    obtain ⟨hattr, hfrom⟩ | ⟨hgcs, hpriv, hel, hkind, hgcsh, hattr⟩ := hcheck
    · have hnot : o.assured = false := hfrom.elim (firstStage_not_assured_of_disabled · ho) id
      exact hardeningFault_of_assuredOnly hthe hattr hnot
    · have hgcs1 : gcsFromEl1 q = true := by simp [gcsFromEl1, hgcs, hpriv, hel, hkind]
      exact ⟨.gcsh, hgcs1 ▸ hardeningFault_of_gcsh hthe _ hattr hgcsh⟩

/-! ### The Assured Translation property of the levels of a walk (R240) -/

/-- A final descriptor ends the walk with the property of its level. -/
theorem leafStep_done_assured {c : WalkCfg} {p : WalkPos} {d : LeafDesc} {ia : Nat} {r : StageOk}
    (h : leafStep c p d ia = .ok (.done r)) : r.assured = p.assured := by
  unfold leafStep at h
  split at h
  next => cases h; rfl
  next =>
    split at h
    next => cases h
    next => cases h; rfl

/-- The descriptor that ends a walk is a Block or Page descriptor. -/
theorem descStep_done_assured {c : WalkCfg} {p : WalkPos} {d : Desc} {mro : Bool} {ia : Nat} {r : StageOk}
    (h : descStep c p d mro ia = .ok (.done r)) : r.assured = p.assured := by
  cases d with
  | invalid => cases h
  | table t => exact absurd h descStep_table_ne_done
  | block b =>
    unfold descStep at h
    dsimp only at h
    split at h
    next => exact leafStep_done_assured h
    next => cases h
  | page g =>
    unfold descStep at h
    dsimp only at h
    split at h
    next => exact leafStep_done_assured h
    next => cases h

/-- A descriptor hands the property on only from a level that has it, with Protection enabled, where it is a Protected
Table descriptor read through an IPA with MRO (R240). -/
theorem descStep_go_assured {c : WalkCfg} {p p' : WalkPos} {d : Desc} {mro : Bool} {ia : Nat}
    (h : descStep c p d mro ia = .ok (.go p')) (hp' : p'.assured = true) :
    p.assured = true ∧ c.protection = true ∧ mro = true ∧ ∃ t, d = .table t ∧ t.prot = true := by
  obtain ⟨t, rfl, hnext⟩ := descStep_go h
  have hassured : nextAssured c p t mro = true := by
    obtain ⟨-, -, rfl⟩ | ⟨-, -, rfl⟩ := hnext <;> exact hp'
  obtain ⟨⟨⟨hp, hc⟩, ht⟩, hm⟩ : ((p.assured = true ∧ c.protection = true) ∧ t.prot = true) ∧ mro = true := by
    simpa [nextAssured] using hassured
  exact ⟨hp, hc, hm, t, rfl, ht⟩

/-- A walk ends with the property only from a position that has it. -/
theorem walkLoop_assured {e : WalkEnv} {c : WalkCfg} {place : WalkPos → Traced DescPlace} {ia n : Nat} {p : WalkPos}
    {r : StageOk} (h : (walkLoop e c place ia n p).2 = .ok r) (hr : r.assured = true) : p.assured = true := by
  induction n generalizing p with
  | zero => cases h
  | succ n ih =>
    obtain ⟨at_, d, -, -, ⟨p', hgo, hrest⟩ | hdone⟩ := walkLoop_ok_succ h
    · exact (descStep_go_assured hgo (ih hrest)).1
    · exact descStep_done_assured hdone ▸ hr

/-- The Protected bit of a stage 1 Table descriptor is that of the raw value (R223). -/
theorem decodeDesc_table_prot {l : Launch} {r : SysRegs} {x : DecodeCtx} {raw : Raw} {t : TableDesc}
    (hx : x.stage = .s1) (h : decodeDesc l r x raw = .table t) : t.prot = rawProtected l x.system raw := by
  unfold decodeDesc at h
  split at h
  next =>
    cases hd : decodeValid l x (withoutProtected l x raw) <;> rw [hd] at h <;> cases h
    simp [hx]
  next => cases h

/-- A stage 1 descriptor has MRO only from the stage 2 translation of its address (R240). -/
theorem stage1Place_mro {e : WalkEnv} {c : WalkCfg} {p : WalkPos} {at_ : DescPlace}
    (h : (stage1Place e c p).2 = .ok at_) (hmro : at_.mro = true) :
    c.tableIsIpa = true ∧ ∃ d, (stage2 { e with ctx := p.level } c.ss (.tableRead p.first c.upper p.assured)
      p.da p.space).2 = .ok d ∧ d.mro = true := by
  unfold stage1Place at h
  split at h
  next hipa =>
    obtain ⟨d, hd, h⟩ := Traced.bind_ok.mp h
    obtain ⟨-, -, h⟩ := Traced.bind_ok.mp h
    cases h
    obtain ⟨hipa, -⟩ := Bool.and_eq_true_iff.mp hipa
    exact ⟨hipa, d, hd, hmro⟩
  next => cases h; cases hmro

/-- The first lookup has the property that its walk is started with. -/
theorem startWalk_assured {s : State} {c : WalkCfg} {assured : Bool} {ia : Nat} {p : WalkPos}
    (h : startWalk s c assured ia = .ok (.go p)) : p.assured = assured := by
  rcases startWalk_go h with ⟨-, l, -, rfl⟩ | ⟨-, l, -, -, rfl⟩ <;> rfl

/-- Where the initial lookup level has the property (R240). -/
theorem assuredAtStart_iff {l : Launch} {r : SysRegs} {g : Regime} {ss : SecState} {upper : Bool} :
    assuredAtStart l r g ss upper = true ↔ l.featThe = true ∧ g = .el10 ∧ stage1Disabled l r g ss = false ∧
      stage2Enabled l r g ss = true ∧ (if upper then r.vtcrEl2.tl1 else r.vtcrEl2.tl0) = true := by
  simp [assuredAtStart, stage1Disabled, and_assoc]

/-- Settles O60: the property is given at the start, and every descriptor on the way has to hand it on. -/
theorem assuredTranslationIsNeverRegained : Obligations.AssuredTranslationIsNeverRegained := by
  refine ⟨fun _ _ _ _ _ _ _ h hr => walkLoop_assured h hr, fun _ _ _ _ _ _ h hp' => descStep_go_assured h hp',
    fun _ _ _ _ _ hx h => decodeDesc_table_prot hx h, fun _ _ _ _ h hmro => stage1Place_mro h hmro, ?_⟩
  intro s l r g ss upper ia p h
  rw [startWalk_assured h]
  exact assuredAtStart_iff

end Sys2Proof.Machine

/-! SUPPORT. The tables of initial lookup levels of VMSAv8-64 and the OA of its final descriptors (spec/42_granule_4k.md
R265, R266, R272 to R283; 43_granule_16k.md and 44_granule_64k.md, their siblings), and the statements O50, O43 and
O54. -/

namespace Sys2Proof.Machine

/-! ### Initial lookup levels (R272, R276 to R283) -/

/-- Stage 1 starts at a level exactly where a row of the granule's table holds TnSZ and has that level: each branch of
the function is a row, and no TnSZ is in two rows (R272, R312, R352). -/
theorem v8S1Start_eq_some_iff {c : WalkCfg} {level : Int} :
    v8S1Start c = some level ↔ ∃ r ∈ stage1Rows c, r.holds c.sz ∧ r.level = level := by
  unfold v8S1Start stage1Rows
  cases c.granule <;>
    simp only [StartRow.holds, List.exists_mem_cons_iff, List.not_mem_nil, false_and, exists_false]
  case g4K => unfold s1Start4K; split_ifs <;> grind
  case g16K => unfold s1Start16K; split_ifs <;> grind
  case g64K => unfold s1Start64K; split_ifs <;> grind

/-- The level of a row is 3 less the whole levels that the IA bits above the page resolve. -/
theorem level_of_mem_stage1Rows {c : WalkCfg} {r : StartRow} (hr : r ∈ stage1Rows c) (hsz : r.holds c.sz) :
    r.level = 3 - (((64 - c.sz - c.granule.bits - 1) / (c.granule.bits - 3) : Nat) : Int) := by
  obtain ⟨-, hlo, hhi⟩ := hsz
  unfold stage1Rows at hr
  cases hg : c.granule <;> rw [hg] at hr <;> fin_cases hr <;> dsimp only [Granule.bits] at hlo hhi ⊢ <;> omega

/-- Settles O50: the level is that of a row, and every row satisfies the formula. -/
theorem vmsav8StartLevelFormula : Obligations.Vmsav8StartLevelFormula := by
  refine fun c level => ⟨v8S1Start_eq_some_iff, fun h => ?_⟩
  obtain ⟨r, hr, hsz, rfl⟩ := v8S1Start_eq_some_iff.mp h
  exact level_of_mem_stage1Rows hr hsz

/-- Stage 2 starts at a level exactly where a row of the granule's tables holds T0SZ with the written SL0 and SL2 and
has that level (R281, R320, R359). -/
theorem v8S2Start_eq_some_iff {c : WalkCfg} {level : Int} (hsl0 : c.sl0 ≤ 3) :
    v8S2Start c = some level ↔ ∃ r ∈ stage2Rows c, r.holds c.sz ∧ r.level = level := by
  unfold v8S2Start stage2Rows
  cases c.granule <;>
    simp only [StartRow.holds, List.exists_mem_cons_iff, List.not_mem_nil, false_and, exists_false]
  case g4K => unfold s2Start4K s2Consistent4K; split_ifs <;> grind
  case g16K => unfold s2Start16K s2Consistent16K; split_ifs <;> grind
  case g64K => unfold s2Start64K s2Consistent64K; split_ifs <;> grind

/-- Stage 2 has no initial level exactly where SL0, SL2 and T0SZ are bad. -/
theorem v8S2Start_eq_none_iff {c : WalkCfg} (hsl0 : c.sl0 ≤ 3) : v8S2Start c = none ↔ Stage2StartBad c := by
  constructor
  · intro h r hr hsz
    have hsome := (v8S2Start_eq_some_iff hsl0).mpr ⟨r, hr, hsz, rfl⟩
    rw [h] at hsome
    cases hsome
  · intro h
    refine Option.eq_none_iff_forall_ne_some.mpr fun level hl => ?_
    obtain ⟨r, hr, hsz, -⟩ := (v8S2Start_eq_some_iff hsl0).mp hl
    exact h r hr hsz

/-- The check of the base address is the only fault of a walk at a known initial level. -/
theorem v8Begin_mmu_cause {c : WalkCfg} {assured : Bool} {level : Int} {ia : Nat} {f : MmuFault}
    (h : v8Begin c assured level ia = .mmu f) : f.cause = .baseAddress := by
  unfold v8Begin at h
  split at h <;> cases h
  rfl

/-- A VMSAv8-64 stage 2 walk gives the fault of a bad start exactly where there is no initial level: every other fault
of the start has another cause (R283, R323, R363). -/
theorem startWalk_stage2Start_iff {s : State} {c : WalkCfg} {assured : Bool} {ia : Nat} (hs : c.system = .vmsav8)
    (hst : c.stage = .s2) :
    startWalk s c assured ia = .mmu ⟨.translation, 0, .s2, .stage2Start⟩ ↔ v8S2Start c = none := by
  unfold startWalk
  rw [hs, hst]
  dsimp only
  cases v8S2Start c with
  | none => exact iff_of_true rfl rfl
  | some level =>
    refine iff_of_false (fun h => ?_) (by simp)
    dsimp only at h
    split at h
    next => cases openPoint_cause h
    next => cases v8Begin_mmu_cause h

/-- Settles O43: the fault is given where there is no initial level, and the initial level is that of the row. -/
theorem badStage2StartFaults : Obligations.BadStage2StartFaults := by
  intro s c assured ia hs hst hsl0
  refine ⟨by rw [startWalk_stage2Start_iff hs hst, v8S2Start_eq_none_iff hsl0], fun r p hr hsz hgo => ?_⟩
  have hrow : v8S2Start c = some r.level := (v8S2Start_eq_some_iff hsl0).mpr ⟨r, hr, hsz, rfl⟩
  obtain ⟨-, level, ⟨hs1, -⟩ | ⟨-, hl⟩, rfl⟩ | ⟨hs9, -⟩ := startWalk_go hgo
  · simp [hst] at hs1
  · exact Option.some.inj (hl.symm.trans hrow)
  · simp [hs] at hs9

/-! ### The OA of a final descriptor (R265, R266) -/

/-- The bits below an alignment are free to hold another number's. -/
theorem alignDown_add_mod (v a n : Nat) : (alignDown v n + a % 2 ^ n) % 2 ^ n = a % 2 ^ n := by
  rw [alignDown, Nat.mul_add_mod_self_right, Nat.mod_mod]

/-- The bits above an alignment stay as they are. -/
theorem alignDown_add_div (v a n : Nat) : (alignDown v n + a % 2 ^ n) / 2 ^ n = v / 2 ^ n := by
  have hpos : 0 < 2 ^ n := Nat.two_pow_pos n
  rw [alignDown, Nat.add_comm, Nat.add_mul_div_right _ _ hpos, Nat.div_eq_of_lt (Nat.mod_lt a hpos), Nat.zero_add]

/-- The bits that the IA gives are no more than an OA has (R264, R304, R344). -/
theorem v8Lo_le (g : Granule) (level : Int) (opt52 : Bool) : v8Lo g level ≤ v8MaxOa opt52 := by
  have hlo : v8Lo g level ≤ 48 := by
    cases g <;> simp only [v8Lo, lo4K, lo16K, lo64K] <;> split_ifs <;> omega
  have hmax : 48 ≤ v8MaxOa opt52 := by cases opt52 <;> decide
  exact hlo.trans hmax

/-- Settles O54: above the bits of the IA the OA has those of the descriptor, which has no more than the maximum. -/
theorem vmsav8OaIsDescriptorAboveIaBelow : Obligations.Vmsav8OaIsDescriptorAboveIaBelow := by
  intro g level opt52 oab ia
  have hdiv : v8FinalOa g level opt52 oab ia / 2 ^ v8Lo g level = oab.toNat % 2 ^ v8MaxOa opt52 / 2 ^ v8Lo g level :=
    alignDown_add_div ..
  refine ⟨alignDown_add_mod .., hdiv, ?_⟩
  have hmax : 2 ^ v8MaxOa opt52 = 2 ^ (v8MaxOa opt52 - v8Lo g level) * 2 ^ v8Lo g level := by
    rw [← Nat.pow_add, Nat.sub_add_cancel (v8Lo_le g level opt52)]
  rw [hmax, ← Nat.div_lt_iff_lt_mul (Nat.two_pow_pos _), hdiv, Nat.div_lt_iff_lt_mul (Nat.two_pow_pos _), ← hmax]
  exact Nat.mod_lt _ (Nat.two_pow_pos _)

end Sys2Proof.Machine

/-! SUPPORT. A walk of one lookup: with the 4KB granule and an initial level of 1 a Block descriptor gives the result
(spec/42_granule_4k.md R266, R272, R274, R286), as a stage 1 of EL3 and as the stage 2 of a flat-mapped stage 1
(46_disabled_stages.md R428; 47_at_instructions.md R460, R467), and the statements O14 and O15. -/

namespace Sys2Proof.Machine

/-! ### What one lookup reads (R82, R93, R95) -/

@[simp] theorem Traced.ok_bind {α β : Type} (notes : List LookupNote) (a : α) (f : α → Traced β) :
    Traced.bind (notes, .ok a) f = (notes ++ (f a).1, (f a).2) := rfl

@[simp] theorem Traced.pure_ok_bind {α β : Type} (a : α) (f : α → Traced β) :
    (Traced.pure (.ok a)).bind f = f a := rfl

/-- With no register write pending every descriptor read uses the EE of the walk (R87). -/
theorem lookupEe_of_synced {e : WalkEnv} (h : e.s.pendingRegs = []) (c : WalkCfg) (p : WalkPos) (ia : Nat) :
    lookupEe e c p ia = c.ee := by
  rw [lookupEe, h]
  exact pick_nil ..

/-- With no hazard window open and no access of software to disagree with, a lookup decodes the bytes of memory. -/
theorem lookup_of_quiet {e : WalkEnv} {c : WalkCfg} {p : WalkPos} {at_ : DescPlace} {ia : Nat} (hquiet : Quiet e.s)
    (hsoft : e.s.softAccesses = [])
    (hx : physExists e.s.launch at_.space at_.pa (descBytes c.system) = true) :
    lookup e c p at_ ia = .ok (decodeDesc e.s.launch e.regs (decodeCtx c p.level)
      (BitVec.ofNat 128 (valueOfBytes c.ee
        (observedBytes e.s.mem [] 0 (memKey at_.space at_.pa) (descBytes c.system))))) := by
  obtain ⟨hregs, hwrites, -⟩ := hquiet
  rw [lookup, hsoft, if_neg (by simp [attrsMismatch]), ttdRead_of_no_pending _ _ _ _ _ _ _ _ hwrites hx,
    lookupEe_of_synced hregs]
  rfl

/-- A lookup that ends the walk is the last one. -/
theorem walkLoop_of_done {e : WalkEnv} {c : WalkCfg} {place : WalkPos → Traced DescPlace} {ia : Nat} {p : WalkPos}
    {at_ : DescPlace} {d : Desc} {r : StageOk} (hplace : place p = Traced.pure (.ok at_))
    (hlookup : lookup e c p at_ ia = .ok d) (hdone : descStep c p d at_.mro ia = .ok (.done r)) (n : Nat) :
    walkLoop e c place ia (n + 1) p = ([lookupNote e.s.launch c p d at_ ia], .ok r) := by
  rw [walkLoop, hplace, Traced.pure_ok_bind, hlookup, Traced.pure_ok_bind, descUse, hdone]
  rfl

/-! ### The walk of one lookup (R266, R286) -/

/-- A VMSAv8-64 walk with the 4KB granule and a 48-bit OA that goes to its first lookup, at level 1. -/
structure StartsAtLevelOne (c : WalkCfg) (ia : Nat) : Prop where
  system : c.system = .vmsav8
  granule : c.granule = .g4K
  oa48 : c.opt52 = false
  start : v8Start c = some 1
  base : c.baddr.toNat % 2 ^ 48 < 2 ^ c.oaSize
  input : c.stage = .s2 → ia < 2 ^ (64 - c.sz)

/-- Its descriptor address, `BaseAddr[PAsize-1:x] : IA[x+26:30] : 0b000` with `x` 37 less TnSZ (R286). -/
def levelOneAddress (c : WalkCfg) (ia : Nat) : Nat :=
  alignDown (c.baddr.toNat % 2 ^ 48 % 2 ^ c.paSize) (37 - c.sz) + field ia 30 (37 - c.sz - 3) * 8

/-- The position of that lookup. -/
def levelOnePos (c : WalkCfg) (assured : Bool) (ia : Nat) : WalkPos :=
  { level := 1, da := levelOneAddress c ia, space := c.lookupSpace, first := true, hier := none, assured := assured }

/-- The place it reads, where no stage 2 translates the descriptor address. -/
def levelOnePlace (c : WalkCfg) (ia : Nat) : DescPlace := ⟨levelOneAddress c ia, c.lookupSpace, false⟩

/-- What the lookup did, given the Block descriptor it read. -/
def levelOneNotes (l : Launch) (c : WalkCfg) (assured : Bool) (b : LeafDesc) (ia : Nat) : List LookupNote :=
  [lookupNote l c (levelOnePos c assured ia) (.block b) (levelOnePlace c ia) ia]

/-- What that descriptor gives: `OAB[47:30] : IA[29:0]` (R266). -/
def levelOneOk (c : WalkCfg) (assured : Bool) (b : LeafDesc) (ia : Nat) : StageOk :=
  leafOk c (levelOnePos c assured ia) b (alignDown (b.oab.toNat % 2 ^ 48) 30 + ia % 2 ^ 30)

section
variable {c : WalkCfg} {ia : Nat} (hone : StartsAtLevelOne c ia)
include hone

/-- The walk goes to that lookup: its base address, aligned down to the table, is below the OA size (R183). -/
theorem StartsAtLevelOne.startWalk_eq (s : State) (assured : Bool) :
    startWalk s c assured ia = .ok (.go (levelOnePos c assured ia)) := by
  obtain ⟨hsys, hgran, hopt, hstart, hbase, hinput⟩ := hone
  have haddr : v8BaseAddr c.baddr c.oa52 = c.baddr.toNat % 2 ^ 48 := by simp [v8BaseAddr, WalkCfg.oa52, hopt]
  have hle : v8InitialBase c 1 ≤ c.baddr.toNat % 2 ^ 48 := by
    rw [v8InitialBase, haddr]
    exact Nat.div_mul_le_self _ _
  have hfits : ¬v8BaseTooLarge (v8InitialBase c 1) c.oaSize c.opt52 = true := by
    intro h
    refine (v8BaseTooLarge_iff.mp h).2 (Nat.div_eq_of_lt ?_)
    exact (Nat.mod_le _ _).trans_lt (hle.trans_lt hbase)
  rw [startWalk_eq_v8Begin hsys hstart hinput, v8Begin, if_neg hfits, haddr, hgran]
  rfl

/-- A Block descriptor read there ends the walk (R168, R266). -/
theorem StartsAtLevelOne.descStep_block (assured mro : Bool) (b : LeafDesc) :
    descStep c (levelOnePos c assured ia) (.block b) mro ia = .ok (.done (levelOneOk c assured b ia)) := by
  obtain ⟨hsys, hgran, hopt, -, -, -⟩ := hone
  simp only [descStep, blockAllowed, leafStep, hsys, hgran, hopt]
  rfl

/-- It reads one descriptor, there (R93). -/
theorem StartsAtLevelOne.descReads_notes (l : Launch) (assured : Bool) (b : LeafDesc) :
    descReads (levelOneNotes l c assured b ia) =
      [⟨memKey c.lookupSpace (levelOneAddress c ia), 8, c.walkAttrs⟩] := by
  simp [descReads, levelOneNotes, levelOnePlace, lookupNote, descBytes, hone.system]

/-- Without a TLB entry the stage is that walk, and a Block descriptor gives its result. -/
theorem StartsAtLevelOne.runStage_block {e : WalkEnv} {place : WalkPos → Traced DescPlace} {assured : Bool}
    {b : LeafDesc} (hquiet : Quiet e.s) (hsoft : e.s.softAccesses = []) (hplace : ∀ p, place p = placeOf p)
    (hx : physExists e.s.launch c.lookupSpace (levelOneAddress c ia) 8 = true)
    (hd : decodeDesc e.s.launch e.regs (decodeCtx c 1) (BitVec.ofNat 128 (valueOfBytes c.ee
      (observedBytes e.s.mem [] 0 (memKey c.lookupSpace (levelOneAddress c ia)) 8))) = .block b) :
    runStage e c place ia assured false =
      (levelOneNotes e.s.launch c assured b ia, .ok (levelOneOk c assured b ia)) := by
  have hbytes : descBytes c.system = 8 := by rw [hone.system]; rfl
  have hlookup : lookup e c (levelOnePos c assured ia) (levelOnePlace c ia) ia = .ok (.block b) := by
    rw [lookup_of_quiet hquiet hsoft (by rw [hbytes]; exact hx), hbytes]
    exact congrArg Res.ok hd
  have hmiss := usableEntries_of_empty e.s e.purpose c ia false hquiet.2.2
  rw [runStage_miss _ _ _ _ _ _ hmiss, if_neg (by simp), hone.startWalk_eq, walkFrom, Traced.pure_ok_bind]
  exact walkLoop_of_done (hplace _) hlookup (hone.descStep_block assured false b) 5

end

/-! ### AT instructions that succeed (R450, R475) -/

/-- With no register write pending, an AT instruction whose translation succeeds records what its walk read and
reports the result in PAR_EL1. -/
theorem exec_of_attempt_ok {i : Instr} {s : State} {ss : SecState} {f : AtForm} {notes : List LookupNote}
    {o : TransOk} (hregs : s.pendingRegs = []) (hexec : ExecutesFor i.form s ss)
    (hf : equivalentForm s.launch s.regs ss i.form = f)
    (h : attempt s s.regs false (atRequest s.regs ss f (readXt s i.xt)) = (notes, .ok o)) :
    exec i s = .next (afterAt (s.noteWalk notes) (parOfResult s.launch (parFormat s.launch s.regs ss f) o)) := by
  have hview : ∀ p, regsView s p = s.regs := fun p => regsView_of_synced s p hregs
  have htrans : translateAddress s (atRequest s.regs ss f (readXt s i.xt)) = (notes, .ok o) := by
    rw [translateAddress_eq, hview, h]
  rw [exec_eq, execAt_of_executes hexec, hview, hf, atTranslate, htrans]
  rfl

/-- An S1 operation is its own equivalent (R481). -/
theorem equivalentForm_of_s1 {f : AtForm} (h : f.stages = .s1) (l : Launch) (r : SysRegs) (ss : SecState) :
    equivalentForm l r ss f = f := by
  rw [equivalentForm, ← h]
  exact ite_self f

/-! ### Stage 1 of EL3 (R467) -/

/-- With the 4KB granule stage 1 starts at level 1 for a TnSZ of 25 to 33 (R272). -/
theorem v8S1Start_eq_one {c : WalkCfg} (hg : c.granule = .g4K) (hlo : 25 ≤ c.sz) (hhi : c.sz ≤ 33) :
    v8S1Start c = some 1 :=
  v8S1Start_eq_some_iff.mpr ⟨⟨true, 25, 33, 1⟩, by simp [stage1Rows, hg], ⟨rfl, hlo, hhi⟩, rfl⟩

/-- In a regime without stage 2 a descriptor is at its own address (R178). -/
theorem stage1Place_of_not_ipa {c : WalkCfg} (h : c.tableIsIpa = false) (e : WalkEnv) (p : WalkPos) :
    stage1Place e c p = placeOf p := by
  simp [stage1Place, h]

section
variable {s : State} {r : SysRegs} {force : Bool} {q : Request}

/-- In a regime with one range, stage 1 of an address in it is one run of the stage, with no EPDn (R186). -/
theorem firstStage_of_oneRange {ia : Nat} (hrange : twoRanges q.regime = false)
    (hon : stage1Disabled s.launch r q.regime q.ss = false) (hia : checkedVa r q.regime q.va = ia)
    (hin : ia < 2 ^ (64 - (tcrOf r q.regime).t0sz.toNat)) :
    firstStage s r force q =
      runStage (envOf s r force q) (stage1Cfg s.launch r q.regime q.ss false)
        (stage1Place (envOf s r force q) (stage1Cfg s.launch r q.regime q.ss false)) ia
        (assuredAtStart s.launch r q.regime q.ss false) false := by
  have hlower : upperRange q.regime q.va = false := by simp [upperRange, hrange]
  simp [firstStage, stage1, stage1Walk, hon, hia, inLower, hin, hrange, hlower]

/-- Stage 1 alone, with no check of permissions, gives its own output (R468). -/
theorem attempt_of_stage1Only {notes : List LookupNote} {o : StageOk} (honly : q.stage1Only = true)
    (hperms : q.acc.checkPerms = false) (h : firstStage s r force q = (notes, .ok o)) :
    ∃ t, attempt s r force q = (notes, .ok t) ∧ t.oa = o.oa ∧ t.space = o.space ∧ t.attrs = o.attrs := by
  refine ⟨{ oa := o.oa, space := o.space, isPa := !hasStage2 s.launch r q.regime q.ss, attrs := o.attrs,
            s1Perms := o.perms, s2Perms := none, s1Level := o.level, s2Level := 0 }, ?_, rfl, rfl, rfl⟩
  simp [attempt, h, secondStage, honly, permCheck, hperms, Traced.pure]

end

/-- Settles O14: TCR_EL3 and TTBR0_EL3 start a walk of one lookup, and stage 1 is the whole of the translation. -/
theorem el3BlockWalkCompletes : Obligations.El3BlockWalkCompletes := by
  rintro t s b x da hats hel hquiet hsoft hm hsys htbi htg hds hlo hhi hva hbase rfl rfl hx hd
  have hexec : ExecutesFor (Instr.atS1E3A t).form s (el3State s.launch) := ⟨hats, hel ▸ le_rfl, rfl, nofun⟩
  have hone : StartsAtLevelOne (stage1Cfg s.launch s.regs .el3 (el3State s.launch) false) (readXt s t).toNat :=
    { system := hsys, granule := htg, start := v8S1Start_eq_one htg hlo hhi, base := hbase, input := nofun
      oa48 := (congrArg (v8Opt52 · _ _) htg).trans hds }
  have hflat : checkedVa s.regs .el3 (readXt s t) = (readXt s t).toNat := checkedVa_of_not_topByteIgnore htbi
  have hfirst := (firstStage_of_oneRange (s := s) (r := s.regs) (force := false)
      (q := atRequest s.regs (el3State s.launch) ⟨.s1, .e3, .ignore⟩ (readXt s t))
      rfl (congrArg not hm) hflat hva).trans
    (hone.runStage_block hquiet hsoft (stage1Place_of_not_ipa rfl _) hx hd)
  obtain ⟨o, hattempt, hoa, hspace, hattrs⟩ := attempt_of_stage1Only rfl rfl hfirst
  have hformat : parFormat s.launch s.regs (el3State s.launch) (Instr.atS1E3A t).form = .bits64 :=
    congrArg formatOf hsys
  rw [exec_of_attempt_ok hquiet.1 hexec (equivalentForm_of_s1 rfl ..) hattempt, State.noteWalk,
    hone.descReads_notes, parOfResult, hformat, hoa, hspace, hattrs]
  rfl

/-! ### Stage 2 of a flat-mapped stage 1 (R428, R460) -/

/-- With the 4KB granule and DS 0, an SL0 of 1 and a T0SZ of 21 to 33 start stage 2 at level 1 (R274, R281). -/
theorem v8S2Start_eq_one {c : WalkCfg} (hg : c.granule = .g4K) (hds : c.ds = false) (hsl0 : c.sl0 = 1)
    (hlo : 21 ≤ c.sz) (hhi : c.sz ≤ 33) : v8S2Start c = some 1 :=
  (v8S2Start_eq_some_iff (by omega)).mpr
    ⟨⟨true, 21, 33, 1⟩, by simp [stage2Rows, hg, hds, hsl0], ⟨rfl, hlo, hhi⟩, rfl⟩

/-- Without FEAT_THE the use of a stage 2 result gives no fault (R220). -/
theorem stage2_of_not_the {e : WalkEnv} {ss : SecState} {ipa : Nat} {sp : Space} {notes : List LookupNote}
    {d : StageOk} (hthe : e.s.launch.featThe = false)
    (h : runStage e (stage2Cfg e.s.launch e.regs ss sp) placeOf ipa false false = (notes, .ok d)) (use : S2Use) :
    stage2 e ss use ipa sp = (notes, .ok d) := by
  simp [stage2, h, hardeningFault, hthe, Traced.pure]

section
variable {s : State} {r : SysRegs} {force : Bool} {q : Request}

/-- A disabled stage 1 gives the flat-mapped address where it is below the OA size (R421, R422). -/
theorem firstStage_of_disabled (hoff : stage1Disabled s.launch r q.regime q.ss = true)
    (hlt : flatAddress r q.regime q.va < 2 ^ oaSize1 s.launch r q.regime) :
    firstStage s r force q = Traced.pure (.ok (flatOk s.launch r q.regime q.ss q.va q.acc.kind)) := by
  simp [firstStage, hoff, flatStage1, aboveOa_false hlt]

/-- With both stages of a translation, and `CheckPerms` the identity, the address and the space are those of stage 2,
and the attributes those of the two combined (R160, R169). -/
theorem attempt_of_stage2_ok {o d : StageOk} {notes : List LookupNote} (hs1 : q.stage1Only = false)
    (hs2 : stage2Enabled s.launch r q.regime q.ss = true) (hperms : s.launch.checkPermsIdentity = true)
    (ho : firstStage s r force q = Traced.pure (.ok o))
    (hd : stage2 (envOf s r force q) q.ss (.final o.assured (gcsFromEl1 q)) o.oa o.space = (notes, .ok d)) :
    ∃ t, attempt s r force q = (notes, .ok t) ∧ t.oa = d.oa ∧ t.space = d.space ∧
      t.attrs = Config.combineAttrs o.attrs d.attrs := by
  obtain ⟨hhas, hvm⟩ : hasStage2 s.launch r q.regime q.ss = true ∧ vmEffective s.launch r q.ss = true := by
    simpa [stage2Enabled] using hs2
  refine ⟨{ oa := d.oa, space := d.space, isPa := true, attrs := Config.combineAttrs o.attrs d.attrs,
            s1Perms := o.perms, s2Perms := d.perms, s1Level := o.level, s2Level := d.level }, ?_, rfl, rfl, rfl⟩
  simp [attempt, ho, secondStage, hs1, hhas, hvm, hd, permCheck, hperms, Traced.pure]

end

/-- With HCR_EL2.DC 1 and EL2 enabled, stage 1 of EL1&0 is disabled and stage 2 enabled (R428). -/
theorem stages_of_dc {l : Launch} {r : SysRegs} {ss : SecState} (hel2 : el2Enabled l r ss = true)
    (hdc : r.hcrEl2.dc = true) : stage1Disabled l r .el10 ss = true ∧ stage2Enabled l r .el10 ss = true := by
  simp [stage1Disabled, mEffective, stage2Enabled, hasStage2, vmEffective, dcEffective, hel2, hdc]

/-- Settles O15: VTCR_EL2 and VTTBR_EL2 start a walk of one lookup of the flat-mapped address. -/
theorem s12UnderDcTranslatesAtStage2 : Obligations.S12UnderDcTranslatesAtStage2 := by
  rintro t s b x da hel hel3 hscr hquiet hsoft hperms hthe hel2 hdc hflat hoa1 hsys htg hds hsl0 hlo hhi hin hbase
    rfl rfl hx hd
  have htarget : targetState s.launch s.regs .e1 = some .nonSecure := by
    simp [targetState, lowerState, scrState, hel3, hscr]
  have hexec : ExecutesFor (Instr.atS12E1R t).form s .nonSecure :=
    ⟨rfl, hel, (regsView_of_synced s .atInstr hquiet.1).symm ▸ htarget, nofun⟩
  obtain ⟨hs1, hs2⟩ := stages_of_dc hel2 hdc
  have hone : StartsAtLevelOne (stage2Cfg s.launch s.regs .nonSecure .nonSecure)
      (flatAddress s.regs .el10 (readXt s t)) :=
    { system := hsys, granule := htg, input := fun _ => hflat.trans_lt hin
      base := by rw [← hsys] at hbase; exact hbase
      oa48 := (congrArg (v8Opt52 · _ _) htg).trans hds
      start := v8S2Start_eq_one htg hds (congrArg BitVec.toNat hsl0) hlo hhi }
  rw [← hflat] at hx hd ⊢
  obtain ⟨o, hattempt, hoa, hspace, hattrs⟩ := attempt_of_stage2_ok (s := s) (r := s.regs) (force := false)
    (q := atRequest s.regs .nonSecure ⟨.s12, .e1, .read false⟩ (readXt s t)) rfl hs2 hperms
    (firstStage_of_disabled hs1 (hflat.trans_lt hoa1))
    (stage2_of_not_the hthe (hone.runStage_block hquiet hsoft (fun _ => rfl) hx hd) _)
  have hformat : parFormat s.launch s.regs .nonSecure (Instr.atS12E1R t).form = .bits64 :=
    (if_pos hs2).trans (congrArg formatOf hsys)
  rw [exec_of_attempt_ok hquiet.1 hexec (if_pos hel2) hattempt, State.noteWalk,
    hone.descReads_notes, parOfResult, hformat, hoa, hspace, hattrs]
  rfl

end Sys2Proof.Machine

/-! SUPPORT. The regular start levels of VMSAv9-128 and the size of its next level tables (spec/45_vmsav9_128.md R381,
R382, R397 to R400, R409), and the statements O51 and O52. -/

namespace Sys2Proof.Machine

/-! ### Regular start levels (R382, R409) -/

/-- A stage with two VA ranges has no start level for a TnSZ below 9; any other takes the level of the row of Table
D8-44 that holds TnSZ, each branch of the function being a row. -/
theorem v9RegularStart_eq_some_iff {g : Granule} {sz : Nat} {two : Bool} {level : Int} :
    v9RegularStart g sz two = some level ↔
      (two = true → 9 ≤ sz) ∧ ∃ r ∈ vmsav9Rows g, r.holds sz ∧ r.level = level := by
  unfold v9RegularStart
  by_cases hwide : two = true ∧ sz < 9
  · rw [if_pos hwide]
    exact iff_of_false nofun fun ⟨hmin, _⟩ => Nat.not_lt.mpr (hmin hwide.1) hwide.2
  · have hmin : two = true → 9 ≤ sz := fun htwo => Nat.not_lt.mp fun hlt => hwide ⟨htwo, hlt⟩
    rw [if_neg hwide, and_iff_right hmin]
    unfold vmsav9Rows
    cases g <;> dsimp only <;> split_ifs <;>
      simp only [StartRow.holds, List.exists_mem_cons_iff, List.not_mem_nil, false_and, exists_false, true_and,
        or_false, false_iff, Option.some.injEq] <;>
      omega

/-- The level of a row is 3 less the strides that fit whole into the IA bits above the page less one (C2). -/
theorem level_of_mem_vmsav9Rows {g : Granule} {sz : Nat} {r : StartRow} (hr : r ∈ vmsav9Rows g) (hsz : r.holds sz) :
    r.level = 3 - (((64 - sz - v9PageIndex g - 1) / v9Stride g : Nat) : Int) := by
  obtain ⟨-, hlo, hhi⟩ := hsz
  cases g <;> fin_cases hr <;> dsimp only [v9PageIndex, v9Stride] at hlo hhi ⊢ <;> omega

/-- Settles O51: the level is that of a row, and every row satisfies the formula. -/
theorem vmsav9StartLevelFormula : Obligations.Vmsav9StartLevelFormula := by
  refine fun g sz two level => ⟨v9RegularStart_eq_some_iff, fun h => ?_⟩
  obtain ⟨-, r, hr, hsz, rfl⟩ := v9RegularStart_eq_some_iff.mp h
  exact level_of_mem_vmsav9Rows hr hsz

/-! ### The size of the next level table (R397 to R400) -/

/-- Every granule resolves some bits at each level (R381). -/
theorem v9Stride_pos (g : Granule) : 0 < v9Stride g := by cases g <;> decide

/-- The next level table is too large exactly when its SKL + 1 levels are more than the levels left up to 3: both sizes
are that many strides. -/
theorem v9TableTooLarge_iff {g : Granule} {level : Int} {skl : BitVec 2} :
    v9TableTooLarge g level skl = true ↔ (3 - level).toNat < skl.toNat + 1 := by
  rw [v9TableTooLarge, decide_eq_true_iff, v9Below, v9N, Nat.mul_lt_mul_right (v9Stride_pos g)]

/-- Settles O52: fewer than SKL + 1 levels are left exactly when the level SKL + 1 further on is past 3. -/
theorem tableTooLargeMeansPastLevelThree : Obligations.TableTooLargeMeansPastLevelThree := by
  intro g level skl _ hhi
  rw [v9TableTooLarge_iff]
  omega

end Sys2Proof.Machine

/-! SUPPORT. The disabled stages: HCR_EL2.DC, the one fault of a flat-mapped address, and the AT instructions whose
stages are all disabled (spec/46_disabled_stages.md R421 to R431; 47_at_instructions.md R450 to R467; 60_exceptions.md
R506, R512), with the statements O10 to O13, O56 and O57. -/

namespace Sys2Proof.Machine

/-! ### The attributes of a disabled stage 1 (R424) -/

/-- A write has the attributes of a read: only those of a fetch are told apart. -/
theorem disabledAttrs_of_ne_fetch {kind : AccessKind} (h : kind ≠ .fetch) (l : Launch) (r : SysRegs) (g : Regime)
    (ss : SecState) : disabledAttrs l r g ss kind = disabledAttrs l r g ss .read := by
  simp [disabledAttrs, h]

/-- Where HCR_EL2.DC does not act, the data accesses of a regime are Device-nGnRnE. -/
theorem disabledAttrs_read_of_no_dc {l : Launch} {r : SysRegs} {g : Regime} {ss : SecState}
    (h : g = .el10 → dcEffective l r ss = false) :
    disabledAttrs l r g ss .read = .deviceNGnRnE (if l.featXs then some true else none) := by
  rw [disabledAttrs, if_neg fun ⟨hg, hdc⟩ => by simp [h hg] at hdc]
  rfl

/-- HCR_EL2.DC would enable stage 2 of EL1&0, so it does not act where that is not enabled (R428). -/
theorem dcEffective_of_not_stage2Enabled {l : Launch} {r : SysRegs} {ss : SecState}
    (h : stage2Enabled l r .el10 ss = false) : dcEffective l r ss = false := by
  cases hel2 : el2Enabled l r ss with
  | false => simp [dcEffective, hel2]
  | true =>
    have hvm : vmEffective l r ss = false := by simpa [stage2Enabled, hasStage2, hel2] using h
    exact (Bool.or_eq_false_iff.mp hvm).1

/-- HCR_EL2.DC and stage 2 concern no regime but EL1&0 (R420). -/
theorem stages_of_ne_el10 {g : Regime} (h : g ≠ .el10) (l : Launch) (r : SysRegs) (ss : SecState) :
    stage1Disabled l r g ss = !(sctlrOf r g).m ∧ stage2Enabled l r g ss = false := by
  cases g with
  | el10 => exact absurd rfl h
  | el20 | el2 | el3 => exact ⟨rfl, rfl⟩

/-- Settles O57: with DC acting the attributes are those of its branch, and no other regime reads it. -/
theorem dcDisablesStage1AndEnablesStage2 : Obligations.DcDisablesStage1AndEnablesStage2 := by
  intro l r ss g kind hel2 hdc
  obtain ⟨hs1, hs2⟩ := stages_of_dc hel2 hdc
  have hacts : dcEffective l r ss = true := by simp [dcEffective, hdc, hel2]
  exact ⟨hs1, hs2, if_pos ⟨rfl, hacts⟩, fun hg => stages_of_ne_el10 hg l r ss⟩

/-! ### The fault of a disabled stage 1 (R422, R506) -/

/-- A flat-mapped address gives no fault but the Address size fault. -/
theorem flatStage1_mmu {l : Launch} {r : SysRegs} {g : Regime} {ss : SecState} {va : Word} {kind : AccessKind}
    {f : MmuFault} (h : flatStage1 l r g ss va kind = .mmu f) : f = ⟨.addressSize, 0, .s1, .flatAddress⟩ := by
  unfold flatStage1 at h
  split at h
  next => exact (Res.mmu.inj h).symm
  next => cases h

/-- Settles O56: neither the second stage nor `CheckPerms` adds a fault to that of the flat-mapped address. -/
theorem disabledStagesGiveOnlyAddressSizeFaults : Obligations.DisabledStagesGiveOnlyAddressSizeFaults := by
  intro s r force q f hs1 hs2 h
  obtain hstages | ⟨t, -, hperm⟩ := Traced.bind_mmu.mp h
  · obtain hfirst | ⟨o, -, hsecond⟩ := Traced.bind_mmu.mp hstages
    · rw [firstStage, if_pos hs1] at hfirst
      obtain rfl := flatStage1_mmu hfirst
      exact ⟨rfl, rfl⟩
    · obtain ⟨t, ht, -⟩ := secondStage_flat (force := force) o (.inr hs2)
      rw [ht] at hsecond
      cases hsecond
  · rw [Traced.pure_snd, permCheck_skip hs1 (.inr hs2)] at hperm
    cases hperm

/-! ### A translation that looks nothing up (R421, R430) -/

section
variable {s : State} {r : SysRegs} {force : Bool} {q : Request}

/-- Without an enabled stage 2 the second stage makes no lookup. -/
theorem secondStage_fst_of_no_stage2
    (hs2 : q.stage1Only = true ∨ stage2Enabled s.launch r q.regime q.ss = false) (o : StageOk) :
    (secondStage s r force q o).1 = [] := by
  unfold secondStage
  split
  next => rfl
  next hboth =>
    have hvm : vmEffective s.launch r q.ss = false := by
      obtain ⟨honly, hhas⟩ : q.stage1Only = false ∧ hasStage2 s.launch r q.regime q.ss = true := by
        simpa using hboth
      simpa [honly, stage2Enabled, hhas] using hs2
    rw [if_neg (by simp [hvm])]
    rfl

/-- With no stage enabled a translation makes no lookup. -/
theorem attempt_fst_of_disabled (hs1 : stage1Disabled s.launch r q.regime q.ss = true)
    (hs2 : q.stage1Only = true ∨ stage2Enabled s.launch r q.regime q.ss = false) :
    (attempt s r force q).1 = [] := by
  refine List.eq_nil_iff_forall_not_mem.mpr fun n hn => ?_
  obtain hstages | ⟨t, -, hperm⟩ := Traced.mem_bind.mp hn
  · obtain hfirst | ⟨o, -, hsecond⟩ := Traced.mem_bind.mp hstages
    · rw [firstStage, if_pos hs1] at hfirst
      cases hfirst
    · rw [secondStage_fst_of_no_stage2 hs2] at hsecond
      cases hsecond
  · cases hperm

end

/-! ### AT instructions with their stages disabled (R450, R475, R481) -/

section
variable (l : Launch) (r : SysRegs) (ss : SecState) (f : AtForm)

@[simp] theorem equivalentForm_el : (equivalentForm l r ss f).el = f.el := by
  unfold equivalentForm; split <;> rfl

variable {l r ss f}

/-- Where stage 2 takes no part in an operation, it takes none in its equivalent. -/
theorem equivalentForm_no_stage2 {g : Regime} (h : f.stages = .s1 ∨ stage2Enabled l r g ss = false) :
    (equivalentForm l r ss f).stages = .s1 ∨ stage2Enabled l r g ss = false :=
  h.imp_left fun hs1 => (congrArg AtForm.stages (equivalentForm_of_s1 hs1 l r ss)).trans hs1

/-- PAR_EL1 has the format of stage 1 where stage 2 takes no part (R472, R473). -/
theorem parFormat_of_no_stage2 (h : f.stages = .s1 ∨ stage2Enabled l r (atRegime r ss f.el) ss = false) :
    parFormat l r ss f = formatOf (system1 r (atRegime r ss f.el)) := by
  obtain hs1 | hs2 := h
  · simp only [parFormat, hs1]
  · cases hs : f.stages <;> simp [parFormat, hs, hs2]

end

/-- With stage 1 of its regime disabled and no stage 2 to follow, an AT instruction reports the flat-mapped address in
PAR_EL1, the space of the Security state and the attributes of a disabled stage 1, and records no lookup. -/
theorem exec_of_disabled {i : Instr} {s : State} {ss : SecState} {g : Regime} {a : Attrs} (hregs : s.pendingRegs = [])
    (hexec : ExecutesFor i.form s ss) (hg : atRegime s.regs ss i.form.el = g)
    (hs1 : stage1Disabled s.launch s.regs g ss = true)
    (hs2 : i.form.stages = .s1 ∨ stage2Enabled s.launch s.regs g ss = false)
    (hlt : flatAddress s.regs g (readXt s i.xt) < 2 ^ oaSize1 s.launch s.regs g)
    (ha : disabledAttrs s.launch s.regs g ss .read = a) :
    exec i s = .next (afterAt s
      ⟨formatOf (system1 s.regs g),
        .result (BitVec.ofNat 56 (flatAddress s.regs g (readXt s i.xt))) ss.space (parAttrs s.launch a)⟩) := by
  have hel := equivalentForm_el s.launch s.regs ss i.form
  have hno2 := equivalentForm_no_stage2 hs2
  generalize hf : equivalentForm s.launch s.regs ss i.form = f at hel hno2
  rw [← hel] at hg
  subst hg
  have honly : (atRequest s.regs ss f (readXt s i.xt)).stage1Only = true ∨
      stage2Enabled s.launch s.regs (atRegime s.regs ss f.el) ss = false :=
    hno2.imp_left beq_iff_eq.mpr
  obtain ⟨o, hok, hoa, hspace, hattrs⟩ :=
    attempt_flat s s.regs false (atRequest s.regs ss f (readXt s i.xt)) hs1 honly hlt
  have hread : o.attrs = a := (hattrs.trans (disabledAttrs_of_ne_fetch (atAccess_kind_ne_fetch f) ..)).trans ha
  rw [exec_of_attempt_ok hregs hexec hf (Prod.ext (attempt_fst_of_disabled hs1 honly) hok),
    parOfResult, parFormat_of_no_stage2 hno2, hoa, hspace, hread]
  rfl

/-- Settles O10: each of the seven operations is one of stage 1 of EL1&0 alone. -/
theorem el1OperationsFlatMap : Obligations.El1OperationsFlatMap := by
  intro t i s ss hi hexec hregs hs1 hlt
  fin_cases hi <;> exact exec_of_disabled hregs hexec rfl hs1 (.inl rfl) hlt rfl

/-- The regime that serves EL2 is not EL1&0 (R532). -/
theorem el2Regime_ne_el10 (r : SysRegs) (ss : SecState) : el2Regime r ss ≠ .el10 := by
  unfold el2Regime; split <;> exact nofun

/-- SCTLR_EL2 serves either regime of EL2 (R55). -/
theorem sctlrOf_el2Regime (r : SysRegs) (ss : SecState) : sctlrOf r (el2Regime r ss) = r.sctlrEl2 := by
  unfold el2Regime; split <;> rfl

/-- Settles O11: each of the three operations is one of stage 1 of the regime that serves EL2, which DC does not
concern. -/
theorem el2OperationsFlatMap : Obligations.El2OperationsFlatMap := by
  intro t i s ss hi hexec hregs hm hlt
  have hne := el2Regime_ne_el10 s.regs ss
  have hs1 : stage1Disabled s.launch s.regs (el2Regime s.regs ss) ss = true := by
    rw [(stages_of_ne_el10 hne ..).1, sctlrOf_el2Regime, hm]
    rfl
  have hattrs := disabledAttrs_read_of_no_dc (l := s.launch) (r := s.regs) (ss := ss) fun hg => absurd hg hne
  fin_cases hi <;> exact exec_of_disabled hregs hexec rfl hs1 (.inl rfl) hlt hattrs

/-- The space of EL3 is Root with FEAT_RME and Secure without (R471). -/
theorem el3State_space (l : Launch) : (el3State l).space = if l.featRme then .root else .secure := by
  unfold el3State; split <;> rfl

/-- Settles O12: each of the three operations is one of stage 1 of EL3, which DC does not concern. -/
theorem el3OperationsFlatMap : Obligations.El3OperationsFlatMap := by
  intro t i s hi hfeat hel hregs hm hlt
  have hs1 : stage1Disabled s.launch s.regs .el3 (el3State s.launch) = true := congrArg not hm
  have hattrs := disabledAttrs_read_of_no_dc (l := s.launch) (r := s.regs) (g := .el3) (ss := el3State s.launch) nofun
  rw [← el3State_space]
  fin_cases hi <;>
    exact exec_of_disabled hregs ⟨hfeat, hel ▸ le_rfl, rfl, nofun⟩ rfl hs1 (.inl rfl) hlt hattrs

/-- Settles O13: each of the four operations is one of EL1&0, and with stage 2 not enabled DC does not act. -/
theorem s12OperationsFlatMap : Obligations.S12OperationsFlatMap := by
  intro t i s ss hi hexec hregs hs1 hs2 hlt
  have hattrs := disabledAttrs_read_of_no_dc (g := .el10) fun _ => dcEffective_of_not_stage2Enabled hs2
  fin_cases hi <;> exact exec_of_disabled hregs hexec rfl hs1 (.inr hs2) hlt hattrs

end Sys2Proof.Machine

/-! SUPPORT. What an AT instruction ends in: the cases in which it is UNDEFINED, the report of its translation in
PAR_EL1, what it leaves unchanged, and the equivalent operation without EL2 (spec/47_at_instructions.md R450, R470 to
R473, R475, R479 to R482), with the statements O8, O9, O16, O17, O18, O19 and O25. -/

namespace Sys2Proof.Machine

/-! ### UNDEFINED (R470, R480, R482) -/

/-- An operation may not execute below the level it names, nor below the one that controls a stage it uses: EL1 for
stage 1, EL2 for stage 2 (R470, R533). -/
theorem minEl_toNat (f : AtForm) :
    (minEl f).toNat = max (atLevel f.el).toNat (if f.stages = .s12 then 2 else 1) := by
  unfold minEl
  cases f.el <;> cases f.stages <;> rfl

/-- Settles O8: each of the three levels is below `minEL` of the operation. -/
theorem atBelowItsLevelIsUndefined : Obligations.AtBelowItsLevelIsUndefined := by
  intro i s h
  refine (atUndefinedExactlyInItsCases i s).mpr (.inr (.inl ?_))
  rw [minEl_toNat]
  obtain hlow | hel0 | ⟨hs12, hel1⟩ := h
  · exact lt_max_of_lt_left hlow
  · rw [hel0]
    exact lt_max_of_lt_right (by split <;> decide)
  · rw [hel1, if_pos hs12]
    exact lt_max_of_lt_right (by decide)

/-- Settles O9: each of the three is an operation of E2. -/
theorem el2OperationsNeedEl2 : Obligations.El2OperationsNeedEl2 := by
  intro t i s ss hi htarget hoff
  have he2 : i.form.el = .e2 := by fin_cases hi <;> rfl
  exact (atUndefinedExactlyInItsCases i s).mpr (.inr (.inr (.inr ⟨ss, he2 ▸ htarget, he2, hoff⟩)))

/-! ### The report of a translation (R450, R475, R479) -/

/-- An instruction that is not UNDEFINED translates for its target Security state. -/
theorem exec_of_executes {i : Instr} {s : State} {ss : SecState} (h : ExecutesFor i.form s ss) :
    exec i s = atTranslate (equivalentForm s.launch (regsView s .atInstr) ss i.form) (regsView s .atInstr) ss
      (readXt s i.xt) s := by
  rw [exec_eq, execAt_of_executes h]

/-- An instruction that completes is not UNDEFINED. -/
theorem exec_next_iff {i : Instr} {s u : State} :
    exec i s = .next u ↔ ∃ ss, ExecutesFor i.form s ss ∧
      atTranslate (equivalentForm s.launch (regsView s .atInstr) ss i.form) (regsView s .atInstr) ss
        (readXt s i.xt) s = .next u := by
  constructor
  · intro h
    obtain ⟨-, hu⟩ | ⟨ss, hss⟩ := execAt_cases i.form i.xt s
    · rw [exec_eq, hu] at h
      cases h
    · exact ⟨ss, hss, exec_of_executes hss ▸ h⟩
  · rintro ⟨ss, hss, h⟩
    exact (exec_of_executes hss).trans h

section
variable {f : AtForm} {r : SysRegs} {ss : SecState} {va : Word} {s u : State} {x : Traced TransOk}
  (hx : x = translateAddress s (atRequest r ss f va))
include hx

/-- A translation that succeeds is reported with its result (R475). -/
theorem atTranslate_of_ok {o : TransOk} (h : x.2 = .ok o) :
    atTranslate f r ss va s =
      .next (afterAt (s.noteWalk x.1) (parOfResult s.launch (parFormat s.launch r ss f) o)) := by
  subst hx
  simp only [atTranslate, h]
  rfl

/-- A fault that `ATFaultReport` reports is in PAR_EL1 (R479). -/
theorem atTranslate_of_reported {e : MmuFault} (h : x.2 = .mmu e) (hr : atReports s.launch f e = true) :
    atTranslate f r ss va s =
      .next (afterAt (s.noteWalk x.1) (parOfFault s.draws f (parFormat s.launch r ss f) e)) := by
  subst hx
  simp only [atTranslate, h]
  exact if_pos hr

/-- Any other fault is taken as an exception (R479). -/
theorem atTranslate_of_taken {e : MmuFault} (h : x.2 = .mmu e) (hr : atReports s.launch f e = false) :
    atTranslate f r ss va s = .fault (.mmuException e) := by
  subst hx
  simp only [atTranslate, h]
  exact if_neg (Bool.eq_false_iff.mp hr)

/-- An instruction that completes reports the result of its translation, or its fault. -/
theorem atTranslate_next (h : atTranslate f r ss va s = .next u) :
    (∃ o, x.2 = .ok o ∧
      u = afterAt (s.noteWalk x.1) (parOfResult s.launch (parFormat s.launch r ss f) o)) ∨
    ∃ e, x.2 = .mmu e ∧
      u = afterAt (s.noteWalk x.1) (parOfFault s.draws f (parFormat s.launch r ss f) e) := by
  subst hx
  obtain ⟨o, ho, hu⟩ | ⟨e, he, -, hu⟩ := atFinish_next h
  · exact .inl ⟨o, ho, hu⟩
  · exact .inr ⟨e, he, hu⟩

/-- PAR_EL1.F is 0 exactly after a translation that succeeds. -/
theorem atTranslate_next_iff_of_f_false (hu : u.par.f = false) :
    atTranslate f r ss va s = .next u ↔ ∃ o, x.2 = .ok o ∧
      u = afterAt (s.noteWalk x.1) (parOfResult s.launch (parFormat s.launch r ss f) o) := by
  constructor
  · intro h
    obtain hok | ⟨e, -, rfl⟩ := atTranslate_next hx h
    · exact hok
    · cases hu
  · rintro ⟨o, ho, rfl⟩
    exact atTranslate_of_ok hx ho

end

/-- Settles O16: the report of a result is the result, with F 0. -/
theorem successIsReportedInPar : Obligations.SuccessIsReportedInPar := by
  rintro i s ss f x o hex rfl hx ho
  exact ⟨_, (exec_of_executes hex).trans (atTranslate_of_ok hx ho), rfl, rfl⟩

/-- Settles O17: the report of a fault has F 1, and a fault that is not reported is taken. -/
theorem faultIsReportedOrTaken : Obligations.FaultIsReportedOrTaken := by
  rintro i s ss f x e hex rfl hx he
  exact ⟨fun hr => ⟨_, (exec_of_executes hex).trans (atTranslate_of_reported hx he hr), rfl⟩,
    fun hr => (exec_of_executes hex).trans (atTranslate_of_taken hx he hr)⟩

/-! ### The frame (R450) -/

/-- Settles O18: the state left is the old one with what the walk read recorded, PAR_EL1 written and the pc advanced. -/
theorem atWritesOnlyPar : Obligations.AtWritesOnlyPar := by
  intro i s t h
  obtain ⟨notes, p, rfl⟩ := exec_next h
  simp [afterAt]

/-! ### The format of PAR_EL1 (R472, R473) -/

/-- Every operation that uses stage 2 is one of EL1&0 (R131). -/
theorem atRegime_of_s12 {i : Instr} (h : i.form.stages = .s12) (r : SysRegs) (ss : SecState) :
    atRegime r ss i.form.el = .el10 := by
  cases i with
  | atS12E1R t | atS12E1W t | atS12E0R t | atS12E0W t => rfl
  | _ => cases h

/-- Stage 2 is enabled only where EL2 is (R420). -/
theorem el2Enabled_of_stage2Enabled {l : Launch} {r : SysRegs} {g : Regime} {ss : SecState}
    (h : stage2Enabled l r g ss = true) : el2Enabled l r ss = true := by
  simp only [stage2Enabled, hasStage2, Bool.and_eq_true] at h
  obtain ⟨⟨-, hel2⟩, -⟩ := h
  exact hel2

/-- The report of any outcome has the format of the operation. -/
theorem par_format_of_atTranslate_next {f : AtForm} {r : SysRegs} {ss : SecState} {va : Word} {s u : State}
    (h : atTranslate f r ss va s = .next u) : u.par.format = parFormat s.launch r ss f := by
  obtain ⟨o, -, rfl⟩ | ⟨e, -, rfl⟩ := atTranslate_next rfl h
  · rfl
  · rfl

/-- Settles O19: stage 2 takes part in the equivalent operation exactly where the operation uses an enabled one. -/
theorem parFormatFollowsTheSystem : Obligations.ParFormatFollowsTheSystem := by
  intro i s t ss hex h
  rw [par_format_of_atTranslate_next (exec_of_executes hex ▸ h)]
  generalize regsView s .atInstr = r
  split
  next hboth =>
    obtain ⟨hs12, hs2⟩ := hboth
    rw [equivalentForm, if_pos (el2Enabled_of_stage2Enabled hs2)]
    simp [parFormat, hs12, atRegime_of_s12 hs12, hs2]
  next hnot =>
    have hno2 : i.form.stages = .s1 ∨ stage2Enabled s.launch r (atRegime r ss i.form.el) ss = false := by
      cases hs : i.form.stages with
      | s1 => exact .inl rfl
      | s12 => rw [atRegime_of_s12 hs]; exact .inr (by simpa [hs] using hnot)
    rw [parFormat_of_no_stage2, equivalentForm_el]
    rw [equivalentForm_el]
    exact equivalentForm_no_stage2 hno2

/-! ### The equivalent operation without EL2 (R481) -/

/-- An S12 operation of E0 or E1 executes at EL2 and EL3 for the Security state below EL3, and its S1 operation does. -/
theorem executesFor_of_lowerState {f : AtForm} {s : State} {ss : SecState} (hel : 2 ≤ s.el.toNat)
    (hss : lowerState s.launch (regsView s .atInstr) = some ss) (hf : f.el = .e0 ∨ f.el = .e1)
    (hfeat : featureImplemented s.launch f.feature = true) : ExecutesFor f s ss := by
  obtain ⟨hlevel, htarget⟩ : (atLevel f.el).toNat ≤ 2 ∧
      targetState s.launch (regsView s .atInstr) f.el = lowerState s.launch (regsView s .atInstr) := by
    obtain hf | hf := hf <;> rw [hf] <;> exact ⟨by decide, rfl⟩
  have hmin : (minEl f).toNat ≤ 2 := minEl_toNat f ▸ max_le hlevel (by split <;> decide)
  exact ⟨hfeat, hmin.trans hel, htarget.trans hss, fun he2 => by simp [he2] at hf⟩

/-- Where EL2 is not enabled, instructions that execute and differ in their stages alone have one outcome. -/
theorem exec_eq_of_not_el2Enabled {i j : Instr} {s : State} {ss : SecState} (hi : ExecutesFor i.form s ss)
    (hj : ExecutesFor j.form s ss) (hoff : el2Enabled s.launch (regsView s .atInstr) ss = false)
    (hform : { i.form with stages := .s1 } = { j.form with stages := .s1 }) (hxt : i.xt = j.xt) :
    exec i s = exec j s := by
  have hsame : equivalentForm s.launch (regsView s .atInstr) ss i.form =
      equivalentForm s.launch (regsView s .atInstr) ss j.form := by
    simpa [equivalentForm, hoff] using hform
  rw [exec_of_executes hi, exec_of_executes hj, hsame, hxt]

/-- Settles O25: both operations of each pair execute, and differ in their stages alone. -/
theorem s12IsS1WithoutEl2 : Obligations.S12IsS1WithoutEl2 := by
  intro t s ss hel hss hoff
  have hexec {i : Instr} (hf : i.form.el = .e0 ∨ i.form.el = .e1) (hfeat : i.form.feature = .always) :
      ExecutesFor i.form s ss := executesFor_of_lowerState hel hss hf (hfeat ▸ rfl)
  exact ⟨exec_eq_of_not_el2Enabled (hexec (.inr rfl) rfl) (hexec (.inr rfl) rfl) hoff rfl rfl,
    exec_eq_of_not_el2Enabled (hexec (.inr rfl) rfl) (hexec (.inr rfl) rfl) hoff rfl rfl,
    exec_eq_of_not_el2Enabled (hexec (.inl rfl) rfl) (hexec (.inl rfl) rfl) hoff rfl rfl,
    exec_eq_of_not_el2Enabled (hexec (.inl rfl) rfl) (hexec (.inl rfl) rfl) hoff rfl rfl⟩

end Sys2Proof.Machine

/-! SUPPORT. No translation and no AT instruction gives an Alignment fault: the MMU faults of each part of a translation
(spec/47_at_instructions.md R478; 60_exceptions.md R504 to R507, R512), with the statement O20. -/

namespace Sys2Proof.Machine

/-! ### Parts of a translation that give no Alignment fault (R512) -/

/-- This result is no Alignment fault. -/
def NotAlignment {α : Type} (x : Res α) : Prop := ∀ f, x = .mmu f → f.kind ≠ .alignment

@[simp] theorem notAlignment_ok {α : Type} (a : α) : NotAlignment (.ok a) := nofun

@[simp] theorem notAlignment_refuse {α : Type} (e : Refusal) : NotAlignment (.refuse e : Res α) := nofun

@[simp] theorem notAlignment_stop {α : Type} (e : Fault) : NotAlignment (.stop e : Res α) := nofun

@[simp] theorem notAlignment_mmu {α : Type} {f : MmuFault} : NotAlignment (.mmu f : Res α) ↔ f.kind ≠ .alignment := by
  simp [NotAlignment]

/-- A continued part gives none where its two parts give none. -/
theorem NotAlignment.bind {α β : Type} {x : Traced α} {f : α → Traced β} (hx : NotAlignment x.2)
    (hf : ∀ a, NotAlignment (f a).2) : NotAlignment (x.bind f).2 := by
  intro e h
  obtain h | ⟨a, -, h⟩ := Traced.bind_mmu.mp h
  · exact hx e h
  · exact hf a e h

/-! ### One stage (R162 to R169, R210) -/

/-- An open point gives an Address size or a Translation fault. -/
theorem openPoint_notAlignment {s : State} {pt : OpenPoint} {c : WalkCfg} {assured : Bool} {ia : Nat} :
    NotAlignment (openPoint s pt c assured ia) := by
  have hfault (size : Bool) (level : Fin 6) : (openFault c size level).kind ≠ .alignment := by
    cases size <;> exact nofun
  unfold openPoint
  split
  next => simp
  next => simp [hfault]
  next => split <;> simp [hfault]

theorem v8Begin_notAlignment {c : WalkCfg} {assured : Bool} {level : Int} {ia : Nat} :
    NotAlignment (v8Begin c assured level ia) := by
  unfold v8Begin; split <;> simp

theorem v9Begin_notAlignment {c : WalkCfg} {assured : Bool} {level : Int} {ia : Nat} :
    NotAlignment (v9Begin c assured level ia) := by
  unfold v9Begin; dsimp only; split <;> simp

/-- The start of a walk. -/
theorem startWalk_notAlignment {s : State} {c : WalkCfg} {assured : Bool} {ia : Nat} :
    NotAlignment (startWalk s c assured ia) := by
  unfold startWalk
  (repeat' split) <;> simp [openPoint_notAlignment, v8Begin_notAlignment, v9Begin_notAlignment]

theorem leafStep_notAlignment {c : WalkCfg} {p : WalkPos} {d : LeafDesc} {ia : Nat} :
    NotAlignment (leafStep c p d ia) := by
  unfold leafStep; (repeat' split) <;> simp

theorem v8Table_notAlignment {c : WalkCfg} {p : WalkPos} {t : TableDesc} {mro : Bool} {ia : Nat} :
    NotAlignment (v8Table c p t mro ia) := by
  unfold v8Table; split <;> simp

theorem v9Table_notAlignment {c : WalkCfg} {p : WalkPos} {t : TableDesc} {mro : Bool} {ia : Nat} :
    NotAlignment (v9Table c p t mro ia) := by
  unfold v9Table; dsimp only; (repeat' split) <;> simp

/-- What a descriptor does. -/
theorem descStep_notAlignment {c : WalkCfg} {p : WalkPos} {d : Desc} {mro : Bool} {ia : Nat} :
    NotAlignment (descStep c p d mro ia) := by
  cases d with
  | invalid => simp
  | table t => unfold descStep; dsimp only; split <;> simp [v8Table_notAlignment, v9Table_notAlignment]
  | block b => unfold descStep; dsimp only; split <;> simp [leafStep_notAlignment]
  | page g => unfold descStep; dsimp only; split <;> simp [leafStep_notAlignment]

/-- Reading a descriptor gives no MMU fault of its own. -/
theorem lookup_notAlignment {e : WalkEnv} {c : WalkCfg} {p : WalkPos} {at_ : DescPlace} {ia : Nat} :
    NotAlignment (lookup e c p at_ ia) := by
  unfold lookup ttdRead
  split
  next => simp
  next => split <;> simp [Res.bind]

section
variable {e : WalkEnv} {c : WalkCfg} {place : WalkPos → Traced DescPlace} {ia : Nat}
  (hplace : ∀ p, NotAlignment (place p).2)
include hplace

/-- The lookups of a stage. -/
theorem walkLoop_notAlignment {n : Nat} {p : WalkPos} : NotAlignment (walkLoop e c place ia n p).2 := by
  induction n generalizing p with
  | zero => exact notAlignment_stop _
  | succ n ih =>
    refine (hplace p).bind fun at_ => NotAlignment.bind lookup_notAlignment fun d =>
      NotAlignment.bind descStep_notAlignment fun x => ?_
    cases x with
    | go p' => exact ih
    | done r => exact notAlignment_ok r

theorem walkFrom_notAlignment {x : Res WalkStep} (hx : NotAlignment x) : NotAlignment (walkFrom e c place ia x).2 := by
  refine NotAlignment.bind hx fun y => ?_
  cases y with
  | go p => exact walkLoop_notAlignment hplace
  | done r => exact notAlignment_ok r

/-- One stage: the fault of EPDn, a walk, or the use of an entry. -/
theorem runStage_notAlignment {assured epd : Bool} : NotAlignment (runStage e c place ia assured epd).2 := by
  obtain h | h | ⟨t, -, -, -, h⟩ := runStage_cases e c place ia assured epd <;> rw [h]
  · simp
  · exact walkFrom_notAlignment hplace startWalk_notAlignment
  · exact walkFrom_notAlignment hplace descStep_notAlignment

end

/-! ### The whole translation (R160, R511) -/

theorem placeOf_notAlignment {p : WalkPos} : NotAlignment (placeOf p).2 := notAlignment_ok _

/-- The checks of FEAT_THE give Permission faults (R244, R245, R250). -/
theorem hardeningFault_permission {l : Launch} {r : SysRegs} {use : S2Use} {d : StageOk} {f : MmuFault}
    (h : hardeningFault l r use d = some f) : f.kind = .permission := by
  unfold hardeningFault at h
  dsimp only at h
  (repeat' split at h) <;> cases h <;> rfl

theorem stage2_notAlignment {e : WalkEnv} {ss : SecState} {use : S2Use} {ipa : Nat} {sp : Space} :
    NotAlignment (stage2 e ss use ipa sp).2 := by
  refine (runStage_notAlignment fun _ => placeOf_notAlignment).bind fun d => ?_
  split
  next hf => simp [hardeningFault_permission hf]
  next => simp

theorem stage1Place_notAlignment {e : WalkEnv} {c : WalkCfg} {p : WalkPos} :
    NotAlignment (stage1Place e c p).2 := by
  unfold stage1Place
  split
  next =>
    refine stage2_notAlignment.bind fun d => NotAlignment.bind ?_ fun _ => notAlignment_ok _
    unfold tablePolicy
    split <;> simp
  next => exact placeOf_notAlignment

theorem stage1_notAlignment {s : State} {r : SysRegs} {force : Bool} {q : Request} :
    NotAlignment (stage1 s r force q).2 := by
  have hwalk : NotAlignment (stage1Walk s r force q).2 := runStage_notAlignment fun _ => stage1Place_notAlignment
  unfold stage1
  dsimp only
  split
  next => (repeat' split) <;> simp [hwalk]
  next =>
    split
    next => exact walkFrom_notAlignment (fun _ => placeOf_notAlignment) openPoint_notAlignment
    next => exact hwalk

/-- A disabled stage 1 gives an Address size fault alone (R506). -/
theorem firstStage_notAlignment {s : State} {r : SysRegs} {force : Bool} {q : Request} :
    NotAlignment (firstStage s r force q).2 := by
  unfold firstStage
  split
  next => intro f hf; simp [flatStage1_mmu hf]
  next => exact stage1_notAlignment

theorem secondStage_notAlignment {s : State} {r : SysRegs} {force : Bool} {q : Request} {o : StageOk} :
    NotAlignment (secondStage s r force q o).2 := by
  unfold secondStage
  split
  next => simp
  next =>
    split
    next => exact stage2_notAlignment.bind fun _ => notAlignment_ok _
    next => simp

/-- `CheckPerms` gives Permission and Access flag faults (R504, R505). -/
theorem permCheck_notAlignment {s : State} {r : SysRegs} {q : Request} {t : TransOk} :
    NotAlignment (permCheck s r q t) := by
  unfold permCheck
  (repeat' split) <;> simp

theorem translateAddress_notAlignment {s : State} {q : Request} : NotAlignment (translateAddress s q).2 := by
  obtain ⟨force, h⟩ := translateAddress_attempt s q
  rw [h]
  exact (firstStage_notAlignment.bind fun o => secondStage_notAlignment).bind fun t =>
    permCheck_notAlignment

/-- Settles O20: each part of a translation gives faults of other kinds, and an AT instruction takes none but those of
its translation. -/
theorem noAlignmentFault : Obligations.NoAlignmentFault := by
  refine ⟨fun _ _ => translateAddress_notAlignment, fun i s f h => ?_⟩
  obtain ⟨-, hu⟩ | ⟨ss, hss⟩ := execAt_cases i.form i.xt s
  · rw [exec_eq, hu] at h
    cases h
  · rw [exec_of_executes hss] at h
    exact translateAddress_notAlignment f (atTranslate_exception h).1

end Sys2Proof.Machine

/-! SUPPORT. The PA space of a result: visible to the Security state translated for, and one that the PE has
(spec/20_memory.md R104, R109, R111; 40_walk_generic.md R169; 47_at_instructions.md R471; 60_exceptions.md R531), with
the statement O21. -/

namespace Sys2Proof.Machine

/-! ### The space of a translation (R169) -/

/-- `CheckPerms` changes no result. -/
theorem permCheck_ok {s : State} {r : SysRegs} {q : Request} {t t' : TransOk} (h : permCheck s r q t = .ok t') :
    t' = t := by
  unfold permCheck at h
  (repeat' split at h) <;> cases h <;> rfl

section
variable {s : State} {r : SysRegs} {force : Bool} {q : Request} (hne : q.ss ≠ .root)
include hne

/-- Stage 1, by the TLB or a walk. -/
theorem stage1_visible {o : StageOk} (h : (stage1 s r force q).2 = .ok o) : Visible q.ss o.space := by
  have hwalk (h : (stage1Walk s r force q).2 = .ok o) : Visible q.ss o.space :=
    runStage_visible (c := stage1Cfg s.launch r q.regime q.ss (upperRange q.regime q.va)) hne (visible_space q.ss) h
  unfold stage1 at h
  dsimp only at h
  split at h
  next =>
    split at h
    next => cases h
    next =>
      split at h
      next => cases h
      next => exact hwalk h
  next =>
    split at h
    next =>
      exact walkFrom_visible (c := stage1Cfg s.launch r q.regime q.ss (upperRange q.regime q.va)) hne
        (visible_space q.ss) (fun _ => openPoint_staysVisible) h
    next => exact hwalk h

/-- Stage 1, or the flat map where it is disabled (R421). -/
theorem firstStage_visible {o : StageOk} (h : (firstStage s r force q).2 = .ok o) : Visible q.ss o.space := by
  unfold firstStage at h
  split at h
  next =>
    rw [Traced.pure_snd, flatStage1] at h
    split at h
    next => cases h
    next => cases h; exact visible_space q.ss
  next => exact stage1_visible hne h

/-- Stage 2, or what stands for it: its output is visible where its input is. -/
theorem secondStage_visible {o : StageOk} {t : TransOk} (ho : Visible q.ss o.space)
    (h : (secondStage s r force q o).2 = .ok t) : Visible q.ss t.space := by
  unfold secondStage at h
  split at h
  next => cases h; exact ho
  next =>
    split at h
    next =>
      obtain ⟨d, hd, h⟩ := Traced.bind_ok.mp h
      cases h
      exact stage2_visible hne hd
    next => cases h; exact ho

/-- The result of a translation is in a space visible to its Security state. -/
theorem translateAddress_visible {t : TransOk} (h : (translateAddress s q).2 = .ok t) : Visible q.ss t.space := by
  obtain ⟨force, hforce⟩ := translateAddress_attempt s q
  rw [hforce] at h
  obtain ⟨t', hstages, hperm⟩ := Traced.bind_ok.mp h
  obtain ⟨o, ho, hsecond⟩ := Traced.bind_ok.mp hstages
  obtain rfl := permCheck_ok hperm
  exact secondStage_visible hne (firstStage_visible hne ho) hsecond

end

/-! ### The Security states that a PE without FEAT_RME has (R531) -/

theorem below_of_not_featRme {l : Launch} (h : l.featRme = false) (ss : SecState) :
    SecState.below l ss = .secure ∨ SecState.below l ss = .nonSecure := by
  cases ss <;> simp [SecState.below, h]

/-- Without FEAT_RME an AT instruction is for Secure or Non-secure state (R471). -/
theorem targetState_of_not_featRme {l : Launch} {r : SysRegs} {e : AtEl} {ss : SecState} (h : l.featRme = false)
    (htarget : targetState l r e = some ss) : ss = .secure ∨ ss = .nonSecure := by
  unfold targetState at htarget
  split at htarget
  next => cases htarget; exact .inl (by simp [el3State, h])
  next =>
    unfold lowerState at htarget
    split at htarget
    next =>
      unfold scrState at htarget
      split at htarget <;> cases htarget
      · exact .inl rfl
      · exact .inr rfl
      · exact below_of_not_featRme h .realm
    next => cases htarget; exact below_of_not_featRme h _

/-- Settles O21: the result reported is that of a translation for the target state, and without FEAT_RME that state is
Secure or Non-secure. -/
theorem resultSpaceBelongsToTheState : Obligations.ResultSpaceBelongsToTheState := by
  intro i s t ss pa sp a hex hne h hpar
  have ⟨_, _, htarget, _⟩ := hex
  have hvisible : Visible ss sp := by
    obtain ⟨o, ho, rfl⟩ | ⟨e, -, rfl⟩ := atTranslate_next rfl (exec_of_executes hex ▸ h)
    · cases hpar
      exact translateAddress_visible hne ho
    · cases hpar
  refine ⟨hvisible, fun hrme => ?_⟩
  obtain rfl | rfl := targetState_of_not_featRme hrme htarget
  · exact hvisible
  · exact .inr hvisible

end Sys2Proof.Machine

/-! SUPPORT. The order of FEAT_ETS2 and FEAT_ETS3 where no write waits, and the operations with `<pan>` where PSTATE.PAN
is 0 (spec/20_memory.md R95, R100, R101; 47_at_instructions.md R455, R456, R479), with the statement O26. -/

namespace Sys2Proof.Machine

/-! ### No write waits: nothing to order (R100, R101) -/

/-- The same lookups, made with or without the order of FEAT_ETS2 and FEAT_ETS3. -/
def WalkEnv.ordered (e : WalkEnv) (force : Bool) : WalkEnv := { e with force := force }

section
variable {e : WalkEnv} (hpend : e.s.pendingWrites = []) (force : Bool)
include hpend

/-- A descriptor read is of memory alone. -/
theorem lookup_ordered (c : WalkCfg) (p : WalkPos) (at_ : DescPlace) (ia : Nat) :
    lookup (e.ordered force) c p at_ ia = lookup e c p at_ ia := by
  simp [lookup, WalkEnv.ordered, lookupEe, ttdRead, readBytes, hpend]

variable {c : WalkCfg} {place place' : WalkPos → Traced DescPlace} {ia : Nat} (hplace : ∀ p, place' p = place p)
include hplace

/-- The lookups of a stage. -/
theorem walkLoop_ordered (n : Nat) (p : WalkPos) :
    walkLoop (e.ordered force) c place' ia n p = walkLoop e c place ia n p := by
  induction n generalizing p with
  | zero => rfl
  | succ n ih =>
    refine Traced.bind_congr (hplace p) fun at_ _ =>
      Traced.bind_congr (congrArg Traced.pure (lookup_ordered hpend force c p at_ ia)) fun d _ =>
        Traced.bind_congr rfl fun x _ => ?_
    cases x with
    | go p' => exact ih p'
    | done r => rfl

theorem walkFrom_ordered (x : Res WalkStep) :
    walkFrom (e.ordered force) c place' ia x = walkFrom e c place ia x := by
  refine Traced.bind_congr rfl fun y _ => ?_
  cases y with
  | go p => exact walkLoop_ordered hpend force hplace _ p
  | done r => rfl

/-- One stage: the choice between the entries of the TLB and a walk is the same. -/
theorem runStage_ordered (assured epd : Bool) :
    runStage (e.ordered force) c place' ia assured epd = runStage e c place ia assured epd := by
  unfold runStage
  simp only [walkFrom_ordered hpend force hplace]
  rfl

end

section
variable {e : WalkEnv} (hpend : e.s.pendingWrites = []) (force : Bool)
include hpend

theorem stage2_ordered (ss : SecState) (use : S2Use) (ipa : Nat) (sp : Space) :
    stage2 (e.ordered force) ss use ipa sp = stage2 e ss use ipa sp :=
  Traced.bind_congr (runStage_ordered hpend force (fun _ => rfl) false false) fun _ _ => rfl

theorem stage1Place_ordered (c : WalkCfg) (p : WalkPos) :
    stage1Place (e.ordered force) c p = stage1Place e c p :=
  if_congr Iff.rfl
    (Traced.bind_congr (stage2_ordered (e := { e with ctx := p.level }) hpend force ..) fun _ _ => rfl) rfl

end

section
variable {s : State} (hpend : s.pendingWrites = []) (r : SysRegs) (q : Request)
include hpend

theorem stage1Walk_ordered : stage1Walk s r true q = stage1Walk s r false q :=
  runStage_ordered (e := envOf s r false q) hpend true
    (stage1Place_ordered (e := envOf s r false q) hpend true
      (stage1Cfg s.launch r q.regime q.ss (upperRange q.regime q.va))) ..

theorem firstStage_ordered : firstStage s r true q = firstStage s r false q := by
  unfold firstStage stage1
  rw [stage1Walk_ordered hpend]
  refine if_congr Iff.rfl rfl (if_congr Iff.rfl rfl (if_congr Iff.rfl ?_ rfl))
  exact walkFrom_ordered (e := envOf s r false q) hpend true (fun _ => rfl) _

theorem secondStage_ordered (o : StageOk) : secondStage s r true q o = secondStage s r false q o :=
  if_congr Iff.rfl rfl
    (if_congr Iff.rfl
      (Traced.bind_congr (stage2_ordered (e := envOf s r false q) hpend true ..) fun _ _ => rfl) rfl)

theorem attempt_ordered : attempt s r true q = attempt s r false q :=
  Traced.bind_congr (Traced.bind_congr (firstStage_ordered hpend r q) fun o _ => secondStage_ordered hpend r q o)
    fun _ _ => rfl

omit r in
/-- With no write pending a translation is one pass, whoever takes its fault. -/
theorem translateAddress_of_no_pending : translateAddress s q = attempt s (regsView s q.purpose) false q := by
  rw [translateAddress_eq, attempt_ordered hpend]
  simp only [ite_self]
  split <;> rfl

end

/-! ### The operations with `<pan>` and those without (R455, R456) -/

/-- The operation without `<pan>`. -/
def withoutPan (f : AtForm) : AtForm :=
  { f with
    access := match f.access with
      | .read _ => .read false
      | .write _ => .write false
      | .ignore => .ignore }

@[simp] theorem atRequest_purpose (r : SysRegs) (ss : SecState) (f : AtForm) (va : Word) :
    (atRequest r ss f va).purpose = .atInstr := rfl

/-- The same request, made for an operation without `<pan>`. -/
def requestWithoutPan (q : Request) (form : Option AtForm) : Request :=
  { q with form := form, acc := { q.acc with usePan := false } }

/-- The request of the operation without `<pan>` is the same but for that. -/
theorem atRequest_withoutPan (r : SysRegs) (ss : SecState) (f : AtForm) (va : Word) :
    atRequest r ss (withoutPan f) va = requestWithoutPan (atRequest r ss f va) (some (withoutPan f)) := by
  rcases f with ⟨stages, el, access⟩
  cases access <;> rfl

/-- A pass of a translation asks for PSTATE.PAN alone, and not for the operation. -/
theorem attempt_withoutPan {s : State} {q : Request} (h : panConsidered s q.acc = false) (r : SysRegs) (force : Bool)
    (form : Option AtForm) :
    attempt s r force (requestWithoutPan q form) = attempt s r force q := by
  have hperm (t : TransOk) : permCheck s r (requestWithoutPan q form) t = permCheck s r q t := by
    have hquery : permQuery s (requestWithoutPan q form) t = permQuery s q t := by
      rw [permQuery, permQuery, h]
      rfl
    unfold permCheck
    rw [hquery]
    rfl
  exact Traced.bind_congr rfl fun t _ => congrArg Traced.pure (hperm t)

/-- A policy that is no function of the operation reports the same faults for all. -/
theorem atReports_congr {l : Launch} (h : l.atFaults ≠ .parameter) (f g : AtForm) (e : MmuFault) :
    atReports l f e = atReports l g e := by
  unfold atReports
  cases hp : l.atFaults with
  | report => rfl
  | exception => rfl
  | parameter => exact absurd hp h

/-- With PSTATE.PAN 0 the two operations translate alike: which of their faults are taken is the same, or decides
nothing. -/
theorem translateAddress_withoutPan {s : State} (hpan : s.pan = false)
    (h : s.pendingWrites = [] ∨ s.launch.atFaults ≠ .parameter) (r : SysRegs) (ss : SecState) (f : AtForm) (va : Word) :
    translateAddress s (atRequest r ss (withoutPan f) va) = translateAddress s (atRequest r ss f va) := by
  have hattempt (force : Bool) : attempt s (regsView s .atInstr) force (atRequest r ss (withoutPan f) va) =
      attempt s (regsView s .atInstr) force (atRequest r ss f va) := by
    rw [atRequest_withoutPan]
    exact attempt_withoutPan (q := atRequest r ss f va) (by simp [panConsidered, hpan]) ..
  obtain hpend | hpolicy := h
  · rw [translateAddress_of_no_pending hpend, translateAddress_of_no_pending hpend]
    exact hattempt false
  · have htakes (e : MmuFault) : takesFault s.launch (atRequest r ss (withoutPan f) va) e =
        takesFault s.launch (atRequest r ss f va) e := by
      rw [atRequest_withoutPan]
      exact congrArg (_ && !·) (atReports_congr hpolicy ..)
    rw [translateAddress_eq, translateAddress_eq]
    simp only [atRequest_purpose, htakes, hattempt]

/-- With FEAT_PAN2 an operation executes where the one without `<pan>` does. -/
theorem executesFor_withoutPan {f : AtForm} {s : State} {ss : SecState} (h : s.launch.featPan2 = true) :
    ExecutesFor (withoutPan f) s ss ↔ ExecutesFor f s ss := by
  have hfeat : featureImplemented s.launch (withoutPan f).feature = featureImplemented s.launch f.feature := by
    rcases f with ⟨stages, el, access⟩
    cases access with
    | ignore => rfl
    | read pan | write pan => cases pan <;> simp [withoutPan, AtForm.feature, featureImplemented, h]
  unfold ExecutesFor
  rw [hfeat]
  rfl

/-- The equivalent of an operation without `<pan>` is without it. -/
theorem equivalentForm_withoutPan (l : Launch) (r : SysRegs) (ss : SecState) (f : AtForm) :
    equivalentForm l r ss (withoutPan f) = withoutPan (equivalentForm l r ss f) := by
  unfold equivalentForm; split <;> rfl

/-- With PSTATE.PAN 0 an instruction completes with PAR_EL1.F 0 as that of the operation without `<pan>` does. -/
theorem exec_withoutPan {i j : Instr} {s u : State} (hform : j.form = withoutPan i.form) (hxt : j.xt = i.xt)
    (hpan : s.pan = false) (hfeat : s.launch.featPan2 = true) (hu : u.par.f = false)
    (h : s.pendingWrites = [] ∨ s.launch.atFaults ≠ .parameter) : exec i s = .next u ↔ exec j s = .next u := by
  rw [exec_next_iff, exec_next_iff, hform, hxt]
  refine exists_congr fun ss => and_congr (executesFor_withoutPan hfeat).symm ?_
  rw [equivalentForm_withoutPan, atTranslate_next_iff_of_f_false rfl hu, atTranslate_next_iff_of_f_false rfl hu,
    translateAddress_withoutPan hpan h]
  rfl

/-- Settles O26: S1E1R and S1E1W are S1E1RP and S1E1WP without `<pan>`. -/
theorem panZeroAgrees : Obligations.PanZeroAgrees := fun _ _ _ hpan hfeat hu h =>
  ⟨exec_withoutPan rfl rfl hpan hfeat hu h, exec_withoutPan rfl rfl hpan hfeat hu h⟩

end Sys2Proof.Machine

/-! SUPPORT. The state after reset, and the counter of free choices where no hazard window is open: nothing that a
translation then does asks for a choice (spec/10_state.md R75; 70_reset_and_hazards.md R560, R570 to R578), with the
statements O24 and O28. -/

namespace Sys2Proof.Machine

/-! ### The state after reset (R75, R560) -/

/-- Settles O28: memory, the pending writes and the TLB are empty after reset, and pc is 0 at EL3. -/
theorem resetHasTheInvariant : Obligations.ResetHasTheInvariant where
  memory := memory_wf_reset
  cells := fun _ hc => absurd hc List.not_mem_nil
  pending := fun _ hw => absurd hw List.not_mem_nil
  tlb := fun _ ht => absurd ht List.not_mem_nil
  aligned := by decide
  level := by decide

/-! ### One stage with another counter of choices (R570 to R578) -/

/-- The state with another counter of free choices. -/
def State.withDraws (s : State) (n : Nat) : State := { s with draws := n }

/-- The lookups of a walk with another counter of free choices. -/
def WalkEnv.withDraws (e : WalkEnv) (n : Nat) : WalkEnv := { e with s := e.s.withDraws n }

theorem noFreePoint_iff {l : Launch} : NoFreePoint l ↔ ∀ pt, l.behaviour pt ≠ .free :=
  ⟨fun ⟨htnsz, hinput, hva⟩ pt => by cases pt <;> assumption,
    fun h => ⟨h .tnszOutOfRange, h .s2InputOutOfRange, h .oneRangeVa⟩⟩

/-- An open point whose behaviour is launched draws nothing. -/
theorem openPoint_withDraws {s : State} (hfree : NoFreePoint s.launch) (n : Nat) (pt : OpenPoint) (c : WalkCfg)
    (assured : Bool) (ia : Nat) : openPoint (s.withDraws n) pt c assured ia = openPoint s pt c assured ia := by
  have hpt := noFreePoint_iff.mp hfree pt
  unfold openPoint
  dsimp only [State.withDraws]
  cases hb : s.launch.behaviour pt with
  | refuse => rfl
  | faults size level => rfl
  | free => exact absurd hb hpt

/-- The start of a walk draws at open points alone. -/
theorem startWalk_withDraws {s : State} (hfree : NoFreePoint s.launch) (n : Nat) (c : WalkCfg) (assured : Bool)
    (ia : Nat) : startWalk (s.withDraws n) c assured ia = startWalk s c assured ia := by
  simp only [startWalk, openPoint_withDraws hfree]

/-- With no write pending a descriptor read draws nothing. -/
theorem ttdRead_withDraws {s : State} (hpend : s.pendingWrites = []) (n : Nat) (pt : ChoicePoint)
    (force mayIgnore : Bool) (sp : Space) (pa size : Nat) (ee : Bool) :
    ttdRead (s.withDraws n) pt force mayIgnore sp pa size ee = ttdRead s pt force mayIgnore sp pa size ee := by
  by_cases hx : physExists s.launch sp pa size = true
  · rw [ttdRead_of_no_pending s pt force mayIgnore sp pa size ee hpend hx]
    exact ttdRead_of_no_pending (s.withDraws n) pt force mayIgnore sp pa size ee hpend hx
  · exact (if_neg hx).trans (if_neg hx).symm

section
variable {e : WalkEnv} (hquiet : Quiet e.s) (n : Nat)
include hquiet

/-- A lookup draws neither for the bytes of its descriptor nor for their order. -/
theorem lookup_withDraws (c : WalkCfg) (p : WalkPos) (at_ : DescPlace) (ia : Nat) :
    lookup (e.withDraws n) c p at_ ia = lookup e c p at_ ia := by
  obtain ⟨hregs, hpend, -⟩ := hquiet
  unfold lookup
  rw [lookupEe_of_synced (e := e.withDraws n) hregs, lookupEe_of_synced hregs]
  exact if_congr Iff.rfl rfl (congrArg (Res.bind · _) (ttdRead_withDraws hpend ..))

variable {c : WalkCfg} {place place' : WalkPos → Traced DescPlace} {ia : Nat} (hplace : ∀ p, place' p = place p)
include hplace

/-- The lookups of a stage. -/
theorem walkLoop_withDraws (fuel : Nat) (p : WalkPos) :
    walkLoop (e.withDraws n) c place' ia fuel p = walkLoop e c place ia fuel p := by
  induction fuel generalizing p with
  | zero => rfl
  | succ fuel ih =>
    refine Traced.bind_congr (hplace p) fun at_ _ =>
      Traced.bind_congr (congrArg Traced.pure (lookup_withDraws hquiet n c p at_ ia)) fun d _ =>
        Traced.bind_congr rfl fun x _ => ?_
    cases x with
    | go p' => exact ih p'
    | done r => rfl

theorem walkFrom_withDraws (x : Res WalkStep) :
    walkFrom (e.withDraws n) c place' ia x = walkFrom e c place ia x := by
  refine Traced.bind_congr rfl fun y _ => ?_
  cases y with
  | go p => exact walkLoop_withDraws hquiet n hplace _ p
  | done r => rfl

/-- One stage: with the TLB empty there is no entry to choose, and so it is a walk, or the fault of EPDn. -/
theorem runStage_withDraws (hfree : NoFreePoint e.s.launch) (assured epd : Bool) :
    runStage (e.withDraws n) c place' ia assured epd = runStage e c place ia assured epd := by
  have ⟨_, _, htlb⟩ := hquiet
  have hmiss := usableEntries_of_empty e.s e.purpose c ia epd htlb
  rw [runStage_miss e _ _ _ _ _ hmiss, runStage_miss (e.withDraws n) _ _ _ _ _ hmiss]
  refine if_congr Iff.rfl rfl ?_
  rw [walkFrom_withDraws hquiet n hplace]
  exact congrArg _ (startWalk_withDraws hfree ..)

end

/-! ### A translation with another counter of choices (R160) -/

section
variable {e : WalkEnv} (hquiet : Quiet e.s) (hfree : NoFreePoint e.s.launch) (n : Nat)
include hquiet hfree

/-- Stage 2 of an address. -/
theorem stage2_withDraws (ss : SecState) (use : S2Use) (ipa : Nat) (sp : Space) :
    stage2 (e.withDraws n) ss use ipa sp = stage2 e ss use ipa sp :=
  Traced.bind_congr (runStage_withDraws hquiet n (fun _ => rfl) hfree false false) fun _ _ => rfl

/-- The place of a stage 1 descriptor: flat mapped, or translated by stage 2 (R176 to R178, R430). -/
theorem stage1Place_withDraws (c : WalkCfg) (p : WalkPos) :
    stage1Place (e.withDraws n) c p = stage1Place e c p :=
  if_congr Iff.rfl
    (Traced.bind_congr (stage2_withDraws (e := { e with ctx := p.level }) hquiet hfree n ..) fun _ _ => rfl) rfl

end

section
variable {s : State} (hquiet : Quiet s) (hfree : NoFreePoint s.launch) (n : Nat) (r : SysRegs) (force : Bool)
  (q : Request)
include hquiet hfree

theorem stage1Walk_withDraws : stage1Walk (s.withDraws n) r force q = stage1Walk s r force q :=
  runStage_withDraws (e := envOf s r force q) hquiet n
    (stage1Place_withDraws (e := envOf s r force q) hquiet hfree n
      (stage1Cfg s.launch r q.regime q.ss (upperRange q.regime q.va))) hfree ..

theorem stage1_withDraws : stage1 (s.withDraws n) r force q = stage1 s r force q := by
  have hwalk := stage1Walk_withDraws hquiet hfree n r force q
  unfold stage1
  refine if_congr Iff.rfl (if_congr Iff.rfl rfl (if_congr Iff.rfl rfl hwalk)) (if_congr Iff.rfl ?_ hwalk)
  rw [openPoint_withDraws hfree]
  exact walkFrom_withDraws (e := envOf s r force q) hquiet n (fun _ => rfl) _

theorem firstStage_withDraws : firstStage (s.withDraws n) r force q = firstStage s r force q :=
  if_congr Iff.rfl rfl (stage1_withDraws hquiet hfree n r force q)

theorem secondStage_withDraws (o : StageOk) :
    secondStage (s.withDraws n) r force q o = secondStage s r force q o :=
  if_congr Iff.rfl rfl
    (if_congr Iff.rfl
      (Traced.bind_congr (stage2_withDraws (e := envOf s r force q) hquiet hfree n ..) fun _ _ => rfl) rfl)

theorem attempt_withDraws : attempt (s.withDraws n) r force q = attempt s r force q :=
  Traced.bind_congr
    (Traced.bind_congr (firstStage_withDraws hquiet hfree n r force q) fun o _ =>
      secondStage_withDraws hquiet hfree n r force q o)
    fun _ _ => rfl

end

/-- Settles O24: no window open, a translation reads the registers as they are and is one pass of lookups, none of
which draws. -/
theorem quietTranslationIsDetermined : Obligations.QuietTranslationIsDetermined := by
  intro s q n hquiet hfree
  have ⟨hregs, hpend, _⟩ := hquiet
  change translateAddress (s.withDraws n) q = translateAddress s q
  rw [translateAddress_of_no_pending hpend, translateAddress_of_no_pending (s := s.withDraws n) hpend,
    regsView_of_synced s _ hregs, regsView_of_synced (s.withDraws n) _ hregs]
  exact attempt_withDraws hquiet hfree n s.regs false q

end Sys2Proof.Machine
